-- ==== Sys2Proof/Word.lean ====
section
/-! DEFINITION. The widths of the block's values (00_scope.md §5, R6; 30_encoding.md R37). Every value is unsigned. -/

namespace Sys2Proof

/-- `u8`: a byte lane, a checksum. -/
abbrev Byte := BitVec 8

/-- `u16`: a command code or a data word. -/
abbrev Word := BitVec 16

/-- The 42-bit operation word: the input ports read as one value (R37). -/
abbrev OpWord := BitVec 42

end Sys2Proof
end

