-- ==== Sys2Proof/Config.lean ====
section
/-! DEFINITION. What the spec leaves to the implementation: the propagation time, and the free values of unsettled outputs.
Nothing here has a value that a proof could use: a claim holds whatever they are.
The checksum parameters are fixed by the spec (R5) and stand in Machine/Checksum.lean. -/

namespace Sys2Proof.Config

/-- The open part of `T_PROP` (92_eei_decisions.md D11, OPEN). DESIGN CHOICE (log entry 5): time is counted in ticks
of an unnamed unit. -/
opaque propagationTicks : Nat

/-- `T_PROP`, the longest delay from stable inputs to valid outputs; D11 says it is positive. -/
def tProp : Nat := propagationTicks + 1

/-! Free values (93_implementation_defined.md U7, U9: `any value`): the levels seen on each output port by the `draw`-th
sample taken while the outputs are not settled (R24, R86, R90, R91). Log entry 4. DESIGN CHOICE (log entry 18): they depend
on the draw alone, and not on the instance or its inputs. -/

opaque freeDout0 (draw : Nat) : Byte
opaque freeDout1 (draw : Nat) : Byte
opaque freeDout2 (draw : Nat) : Byte
opaque freeDlen (draw : Nat) : BitVec 2
opaque freeCrc (draw : Nat) : Byte
opaque freeVout (draw : Nat) : Word
opaque freeMismatch (draw : Nat) : BitVec 1

end Sys2Proof.Config
end

