-- ==== Sys2Proof/Machine/State.lean ====
section
/-! DEFINITION. The machine's state: the levels on its ports. The block stores nothing (R13, R14, R15, R16, R25): the
levels of its inputs are the host's, and those of its outputs are a function of them. -/

namespace Sys2Proof.Machine

/-- The input ports of R17, each at a defined level (R24: a model admits only defined input values). -/
structure Inputs where
  op : BitVec 2
  din0 : Byte
  din1 : Byte
  din2 : Byte
  vin : Word
deriving DecidableEq, Repr

/-- The output ports of R18. -/
structure Outputs where
  dout0 : Byte
  dout1 : Byte
  dout2 : Byte
  dlen : BitVec 2
  crc : Byte
  vout : Word
  mismatch : BitVec 1
deriving DecidableEq, Repr

/-- What a host holds of one evaluation: the `op` it drove and the outputs it sampled, with its inputs held from the one
to the other (R91, R94). What an output means depends on the operation (R18, R20), so meanings are read off this pair. -/
structure Reading where
  op : BitVec 2
  out : Outputs
deriving DecidableEq, Repr

/-- The block's one exceptional outcome (R73), as DEC_WORD's failure carries it: no data word with it (R67). -/
inductive ChecksumMismatch where
  | checksumMismatch
deriving DecidableEq, Repr

/-- The state of one instance of the block and its wires.
`inp` is what the host drives, `none` when some input is not at a defined level (R24, R86).
`out` is what the last evaluation drove. `settled` says that every input is defined and has been stable for at least
`T_PROP`, so that a sample sees `out` (R90); a sample taken before sees free values.
`draws` is the model's own counter of such samples (log entry 4); `settled` and the keeping of `out` are log entry 6. -/
structure State where
  inp : Option Inputs
  out : Outputs
  settled : Bool
  draws : Nat
deriving DecidableEq, Repr

/-- The block has no fault and no trap (R81): no step ends in one. ChecksumMismatch is a next state (R74). -/
inductive Fault where
deriving DecidableEq, Repr

/-- Why a step has no meaning. -/
inductive Refusal where
  /-- Raised by an arm of `exec` for an operation without a meaning; no arm raises it. Safe. -/
  | notModelled (mnemonic : String)
  /-- Raised by `step` when some input is not driven to a defined level (R24; U9 says to refuse such inputs). Safe:
  the outputs would be any value. -/
  | undefinedInputs
deriving DecidableEq, Repr

/-- The machine right after reset. Reset changes nothing in the block, and the outputs are `F` of the inputs (R23, R85).
The spec gives the inputs no level: DESIGN CHOICE (log entry 2), all zero and settled, which selects CHECKSUM of two zero
bytes, whose `crc` is 0x81 (R49). -/
def State.reset : State where
  inp := some ⟨0b00#2, 0x00#8, 0x00#8, 0x00#8, 0x0000#16⟩
  out := ⟨0x00#8, 0x00#8, 0x00#8, 0#2, 0x81#8, 0x0000#16, 0#1⟩
  settled := true
  draws := 0

/-- The block at power-up, before its inputs are driven (R86). The outputs carry no meaning: the zeros of `out` are
never sampled while `settled` is false (log entry 15). -/
def State.powerUp : State where
  inp := none
  out := ⟨0x00#8, 0x00#8, 0x00#8, 0#2, 0x00#8, 0x0000#16, 0#1⟩
  settled := false
  draws := 0

end Sys2Proof.Machine
end

