-- ==== Sys2Proof/Machine/Flags.lean ====
section
/-! DEFINITION. The one status bit: `mismatch` (R15, R21, R75). -/

namespace Sys2Proof.Machine

/-- `mismatch` of a DEC_WORD: 1 exactly when the received checksum byte differs from the recomputed one, in any of its
8 bits (R21, R65). -/
def mismatchFlag (recomputed received : Byte) : BitVec 1 := if recomputed = received then 0#1 else 1#1

/-- `mismatch` of every other operation (R49, R60, R62). -/
def noMismatch : BitVec 1 := 0#1

/-- The cause code of an evaluation is the value of `mismatch`: 0 success, 1 ChecksumMismatch (R75). -/
def causeCode (o : Outputs) : Nat := o.mismatch.toNat

end Sys2Proof.Machine
end

