-- ==== Sys2Proof/Syntax.lean ====
section
/-! DEFINITION. The four operations, the three pseudo-instructions and the lines of the assembler's text (R2, R46, R47, R48). -/

namespace Sys2Proof

/-- The operations of R2, one constructor per row of spec/opcode_table.json, with the fields each one reads (R39, R40).
Every value of every operand is legal (R7, R42), so every term of this type is a well-formed instruction. -/
inductive Instr where
  /-- `CHECKSUM b0, b1` (R49). -/
  | checksum (b0 b1 : Byte)
  /-- `ENC_CMD v` (R60). -/
  | encCmd (v : Word)
  /-- `ENC_WORD v` (R62). -/
  | encWord (v : Word)
  /-- `DEC_WORD r0, r1, r2` (R65). -/
  | decWord (r0 r1 r2 : Byte)
deriving DecidableEq, Repr

/-- The pseudo-instructions of R47 and R48. -/
inductive Pseudo where
  /-- `VERIFY r0, r1, r2` (R47). -/
  | verify (r0 r1 r2 : Byte)
  /-- `ENC_FRAME c, w1, ..., wn` with `n >= 0` (R48). -/
  | encFrame (c : Word) (ws : List Word)
  /-- `DEC_FRAME n, s0, ..., s(3n-1)` with `n >= 1` (R48). -/
  | decFrame (n : Nat) (bytes : List Byte)
deriving DecidableEq, Repr

/-- The names a line may begin with (R46, R47, R48). -/
inductive Mnemonic where
  | checksum | encCmd | encWord | decWord | verify | encFrame | decFrame
deriving DecidableEq, Repr

/-- One line of assembler text as it is read, before any check: a mnemonic's letters and its numerals (R46). -/
structure AsmLine where
  mnemonic : List Char
  operands : List Nat
deriving DecidableEq, Repr

/-- What a line stands for once the assembler has accepted it. -/
inductive AsmItem where
  | op (i : Instr)
  | pseudo (p : Pseudo)
deriving DecidableEq, Repr

end Sys2Proof
end

