-- ==== Sys2Proof/Decode.lean ====
section
/-! DEFINITION. The operation word and its decoder and encoder (R37, R38, R39, R40, R42). Every one of the 2^42 words is
legal; only a number that is no 42-bit word is rejected, by name. -/

namespace Sys2Proof

/-- Bits 41:40, `op` (R37). -/
def opField (w : OpWord) : BitVec 2 := w.extractLsb' 40 2
/-- Bits 39:32, `din0` (R37). -/
def din0Field (w : OpWord) : Byte := w.extractLsb' 32 8
/-- Bits 31:24, `din1` (R37). -/
def din1Field (w : OpWord) : Byte := w.extractLsb' 24 8
/-- Bits 23:16, `din2` (R37). -/
def din2Field (w : OpWord) : Byte := w.extractLsb' 16 8
/-- Bits 15:0, `vin` (R37). -/
def vinField (w : OpWord) : Word := w.extractLsb' 0 16

/-- R37: `opword[41:0] = op ++ din0 ++ din1 ++ din2 ++ vin`. -/
def opWordOf (op : BitVec 2) (din0 din1 din2 : Byte) (vin : Word) : OpWord :=
  (op ++ din0 ++ din1 ++ din2 ++ vin).cast rfl

/-- One row of R38's table: a word `w` selects the row when `w AND mask` is `pattern`. -/
structure OpRow where
  mnemonic : Mnemonic
  mask : OpWord
  pattern : OpWord
deriving DecidableEq, Repr

/-- R38's table (also spec/opcode_table.json). -/
def opcodeTable : List OpRow :=
  [ ⟨.checksum, 0x30000000000#42, 0x00000000000#42⟩,
    ⟨.encCmd, 0x30000000000#42, 0x10000000000#42⟩,
    ⟨.encWord, 0x30000000000#42, 0x20000000000#42⟩,
    ⟨.decWord, 0x30000000000#42, 0x30000000000#42⟩ ]

/-- Whether a word selects a row. -/
def OpRow.selects (r : OpRow) (w : OpWord) : Bool := decide (w &&& r.mask = r.pattern)

/-- The operation of an `op` level (R38) with its operands assembled (R40); ignored fields are dropped (R39).
The last case is `op = 0b11`, the one value left of four. -/
def decode (w : OpWord) : Instr :=
  if opField w = 0b00#2 then .checksum (din0Field w) (din1Field w)
  else if opField w = 0b01#2 then .encCmd (vinField w)
  else if opField w = 0b10#2 then .encWord (vinField w)
  else .decWord (din0Field w) (din1Field w) (din2Field w)

/-- Why a number is no operation. -/
inductive DecodeError where
  /-- The number needs more than the 42 bits that every operation word has (R37). -/
  | notAnOperationWord
deriving DecidableEq, Repr

/-- The decoder on any number: total, and it rejects by name what is no 42-bit word (log entry 11). -/
def decodeBits (w : Nat) : Except DecodeError Instr :=
  if w < 2 ^ 42 then .ok (decode (BitVec.ofNat 42 w)) else .error .notAnOperationWord

/-- The host's reading of a table word of `nbits` bits, the bits above them zero. -/
def decodeTableWord (nbits w : Nat) : Option Instr :=
  match decodeBits (w % 2 ^ nbits) with
  | .ok i => some i
  | .error _ => none

/-- The operation word of an instruction (R37, R38); ignored fields are assembled as zero (R46). -/
def encode : Instr → OpWord
  | .checksum b0 b1 => opWordOf 0b00#2 b0 b1 0x00#8 0x0000#16
  | .encCmd v => opWordOf 0b01#2 0x00#8 0x00#8 0x00#8 v
  | .encWord v => opWordOf 0b10#2 0x00#8 0x00#8 0x00#8 v
  | .decWord r0 r1 r2 => opWordOf 0b11#2 r0 r1 r2 0x0000#16

/-- The mnemonic an instruction is written with (R46). -/
def Instr.mnemonic : Instr → Mnemonic
  | .checksum _ _ => .checksum
  | .encCmd _ => .encCmd
  | .encWord _ => .encWord
  | .decWord _ _ _ => .decWord

/-- The bits of an operation word that an operation reads, `op` among them (R38, R39). -/
def readMask : Instr → OpWord
  | .checksum _ _ => 0x3FFFF000000#42
  | .encCmd _ => 0x3000000FFFF#42
  | .encWord _ => 0x3000000FFFF#42
  | .decWord _ _ _ => 0x3FFFFFF0000#42

end Sys2Proof
end

