-- ==== Sys2Proof/Machine/Operands.lean ====
section
/-! DEFINITION. Byte order and operand forms: the big-endian split and join (R26), the wire record (R27), and the input
ports as an operation word (R37). -/

namespace Sys2Proof.Machine

/-- `v[15:8]`, the first byte on the wire (R26). -/
def hiByte (v : Word) : Byte := v.extractLsb' 8 8

/-- `v[7:0]`, the second byte on the wire (R26). -/
def loByte (v : Word) : Byte := v.extractLsb' 0 8

/-- `r0 ++ r1`, the big-endian-assembled value (R26). -/
def joinBytes (r0 r1 : Byte) : Word := (r0 ++ r1).cast rfl

/-- The operation word that the input levels spell (R37). -/
def Inputs.opword (x : Inputs) : OpWord := opWordOf x.op x.din0 x.din1 x.din2 x.vin

/-- The input levels that spell an operation word (R37). -/
def Inputs.ofOpword (w : OpWord) : Inputs := ⟨opField w, din0Field w, din1Field w, din2Field w, vinField w⟩

/-- The levels a host drives for an instruction: its operation word, ignored fields zero (R46). -/
def Inputs.ofInstr (i : Instr) : Inputs := Inputs.ofOpword (encode i)

end Sys2Proof.Machine
end

