-- ==== Sys2Proof/Machine/Ops.lean ====
section
/-! DEFINITION. The operations over the ports that all meanings share: driving outputs, reporting ChecksumMismatch, and
what a host does at the pins (driving, releasing, sampling, resetting). -/

namespace Sys2Proof.Machine

/-- Every output at zero: what an operation drives where SCD4X gives an output no meaning (R20, D5). -/
def Outputs.zero : Outputs := ⟨0x00#8, 0x00#8, 0x00#8, 0#2, 0x00#8, 0x0000#16, 0#1⟩

/-- The end of an evaluation: all outputs are driven at once and are settled (R16, R33). Nothing else changes (R34). -/
def State.present (o : Outputs) (s : State) : State := { s with out := o, settled := true }

/-- TAKING THE EXCEPTION. ChecksumMismatch is reported on the output ports in the same evaluation, with the recomputed
checksum it failed against, and saves, vectors and switches nothing (R74, R81). There is no return from it: the next
evaluation starts clean (R81). -/
def raiseMismatch (recomputed : Byte) (s : State) : Host.Outcome State Fault Refusal :=
  .next (s.present { Outputs.zero with crc := recomputed, mismatch := 1#1 })

/-- The operation word the block reads from its inputs, when they are defined (R16, R37). -/
def State.fetch (s : State) : Option OpWord := s.inp.map Inputs.opword

/-- The host drives all inputs. Levels that differ from those driven before unsettle the outputs (R91); driving the
same levels changes no input (log entry 17). -/
def State.drive (x : Inputs) (s : State) : State :=
  if s.inp = some x then s else { s with inp := some x, settled := false }

/-- The host leaves some input without a defined level (R24). -/
def State.release (s : State) : State := { s with inp := none, settled := false }

/-- A reset of the system around the block changes nothing in it (R85). -/
def State.systemReset (s : State) : State := s

/-- Power is removed and comes back: nothing persists (R89) and the inputs are undriven until the host drives them
(R86). The model's own counter goes on, so that later free values are fresh. -/
def State.powerCycle (s : State) : State := { State.powerUp with draws := s.draws }

/-- Any value on every output (U7, U9). DESIGN CHOICE (log entry 18): the values are indexed by the draw counter alone, so
two samples with equal counters, of separate instances or under differently driven inputs, are equal in the model, while
the spec relates no two unsettled samples. -/
def freeOutputs (draw : Nat) : Outputs :=
  ⟨Config.freeDout0 draw, Config.freeDout1 draw, Config.freeDout2 draw, Config.freeDlen draw, Config.freeCrc draw,
    Config.freeVout draw, Config.freeMismatch draw⟩

/-- The host samples all outputs at one moment: settled outputs show what the evaluation drove; unsettled ones show any
value, a fresh one at each sample of this instance (R24, R86, R90, R91). Nothing makes the samples of two instances
unrelated: log entry 18. -/
def State.sample (s : State) : Outputs × State :=
  if s.settled then (s.out, s) else (freeOutputs s.draws, { s with draws := s.draws + 1 })

/-- What a host may conclude of one reading. `vout` is valid only when `op` selects DEC_WORD and `mismatch = 0` (R18): a
DEC_WORD gives its word or the failure and no word (R67, R75, R94); any other operation gives no verdict, and the zero on
its `vout` has no meaning (R20). -/
def Reading.verdict (r : Reading) : Option (Except ChecksumMismatch Word) :=
  if r.op = 0b11#2 then
    some (if r.out.mismatch = 0#1 then .ok r.out.vout else .error .checksumMismatch)
  else none

/-- The encoded bytes an evaluation hands the host: the first `dlen` lanes, lane 0 first (R18, R19). -/
def Outputs.wireBytes (o : Outputs) : List Byte := [o.dout0, o.dout1, o.dout2].take o.dlen.toNat

end Sys2Proof.Machine
end

