-- ==== Sys2Proof/Machine/Codec.lean ====
section
/-! DEFINITION. The Word Codec: ENC_CMD (R60), ENC_WORD (R62) and DEC_WORD (R65). -/

namespace Sys2Proof.Machine

/-- ENC_CMD (R60, R61): the two big-endian bytes of a command code, no checksum byte. -/
def execEncCmd (v : Word) (s : State) : Host.Outcome State Fault Refusal :=
  .next (s.present
    { Outputs.zero with dout0 := hiByte v, dout1 := loByte v, dlen := 2#2, mismatch := noMismatch })

/-- ENC_WORD (R62): the wire record of a data word; `crc` repeats its checksum byte (D7). -/
def execEncWord (v : Word) (s : State) : Host.Outcome State Fault Refusal :=
  .next (s.present
    { Outputs.zero with
      dout0 := hiByte v, dout1 := loByte v, dout2 := crc8 (hiByte v) (loByte v), dlen := 3#2,
      crc := crc8 (hiByte v) (loByte v), mismatch := noMismatch })

/-- `decode_word` of a record as a function to a word or a failure that carries none (R65, R67). -/
def decodeRecord (r0 r1 r2 : Byte) : Except ChecksumMismatch Word :=
  if mismatchFlag (crc8 r0 r1) r2 = 1#1 then .error .checksumMismatch else .ok (joinBytes r0 r1)

/-- DEC_WORD (R65): an accepted record drives its word; any other raises ChecksumMismatch (R73, R74). `crc` shows the
recomputed checksum either way (D7). -/
def execDecWord (r0 r1 r2 : Byte) (s : State) : Host.Outcome State Fault Refusal :=
  match decodeRecord r0 r1 r2 with
  | .ok v => .next (s.present { Outputs.zero with crc := crc8 r0 r1, vout := v, mismatch := noMismatch })
  | .error .checksumMismatch => raiseMismatch (crc8 r0 r1) s

/-- The record ENC_WORD drives for a word, as three wire bytes (R27, R62). -/
def encodeRecord (v : Word) : Byte × Byte × Byte := (hiByte v, loByte v, crc8 (hiByte v) (loByte v))

end Sys2Proof.Machine
end

