-- ==== Sys2Proof/Machine/Dispatch.lean ====
section
/-! DEFINITION. One arm per operation of R2. -/

namespace Sys2Proof.Machine

def exec (i : Instr) (s : State) : Host.Outcome State Fault Refusal :=
  match i with
  | .checksum b0 b1 => Sys2Proof.Machine.execChecksum b0 b1 s
  | .encCmd v => Sys2Proof.Machine.execEncCmd v s
  | .encWord v => Sys2Proof.Machine.execEncWord v s
  | .decWord r0 r1 r2 => Sys2Proof.Machine.execDecWord r0 r1 r2 s

end Sys2Proof.Machine
end

