-- ==== Sys2Proof/Machine/Step.lean ====
section
/-! DEFINITION. One step is one evaluation of the current input levels (R16, R33). -/

namespace Sys2Proof.Machine

/-- One evaluation: the block reads its inputs as an operation word and drives the outputs of the operation it selects.
Inputs that are not all defined are refused (R24, U9). The block has no program counter: the host sequences (R14). -/
def step (s : State) : Host.Outcome State Fault Refusal :=
  match s.fetch with
  | none => .refused .undefinedInputs
  | some w => exec (decode w) s

/-- The host drives the operation word `w` (its bits above `nbits` zero) on the inputs, so that the next step evaluates
it (R14; log entry 1). -/
def State.withFetchWord (s : State) (nbits w : Nat) : State :=
  s.drive (Inputs.ofOpword (BitVec.ofNat 42 (w % 2 ^ nbits)))

end Sys2Proof.Machine
end

