-- ==== Sys2Proof/WellFormed.lean ====
section
/-! DEFINITION. What the assembler refuses: R46 ("an assembler refuses an operand out of range or a wrong operand count")
and R48 (a frame whose byte count is not `3n`). An `Instr` carries its bounds in its types, so the checks are about the
lines an instruction is written from. -/

namespace Sys2Proof

/-- Why a line is refused, by name. -/
inductive AsmError where
  /-- The first word is none of the seven mnemonics. -/
  | unknownMnemonic
  /-- Too few or too many operands (R46). -/
  | wrongOperandCount
  /-- A byte operand above 0xFF (R46). -/
  | byteOutOfRange
  /-- A value operand above 0xFFFF (R46). -/
  | valueOutOfRange
  /-- A `DEC_FRAME` of no record: R48 asks `n >= 1`. -/
  | emptyFrame
  /-- A `DEC_FRAME` whose byte count is not `3n` (R48). -/
  | frameLength
  /-- An operand that is no numeral of 00_scope.md §5. -/
  | badNumeral
deriving DecidableEq, Repr

/-- Upper case is the spelling and case is not significant (R46). -/
def Mnemonic.read (cs : List Char) : Option Mnemonic :=
  let u := cs.map Char.toUpper
  if u = "CHECKSUM".toList then some .checksum
  else if u = "ENC_CMD".toList then some .encCmd
  else if u = "ENC_WORD".toList then some .encWord
  else if u = "DEC_WORD".toList then some .decWord
  else if u = "VERIFY".toList then some .verify
  else if u = "ENC_FRAME".toList then some .encFrame
  else if u = "DEC_FRAME".toList then some .decFrame
  else none

/-- Byte operands are numerals from 0 to 0xFF (R46). -/
def checkBytes (ops : List Nat) : Except AsmError Unit :=
  if ops.all (· < 256) then .ok () else .error .byteOutOfRange

/-- Value operands are numerals from 0 to 0xFFFF (R46). -/
def checkValues (ops : List Nat) : Except AsmError Unit :=
  if ops.all (· < 65536) then .ok () else .error .valueOutOfRange

/-- A line of exactly `n` operands. -/
def checkCount (n : Nat) (ops : List Nat) (range : Except AsmError Unit) : Except AsmError Unit :=
  if ops.length = n then range else .error .wrongOperandCount

/-- The checks of one mnemonic's operands. DESIGN CHOICE (log entry 10), their order: count, then range; for `DEC_FRAME` some
operand, then at least one record, then the length, then range. -/
def checkOperands (m : Mnemonic) (ops : List Nat) : Except AsmError Unit :=
  match m with
  | .checksum => checkCount 2 ops (checkBytes ops)
  | .encCmd => checkCount 1 ops (checkValues ops)
  | .encWord => checkCount 1 ops (checkValues ops)
  | .decWord => checkCount 3 ops (checkBytes ops)
  | .verify => checkCount 3 ops (checkBytes ops)
  | .encFrame => if ops.isEmpty then .error .wrongOperandCount else checkValues ops
  | .decFrame =>
    match ops with
    | [] => .error .wrongOperandCount
    | n :: bytes =>
      if n = 0 then .error .emptyFrame
      else if bytes.length = 3 * n then checkBytes bytes
      else .error .frameLength

/-- The assembler's verdict on a line (R46, R48). -/
def AsmLine.check (l : AsmLine) : Except AsmError Unit :=
  match Mnemonic.read l.mnemonic with
  | none => .error .unknownMnemonic
  | some m => checkOperands m l.operands

/-- A line the assembler accepts. -/
def AsmLine.wellFormed (l : AsmLine) : Bool :=
  match l.check with
  | .ok _ => true
  | .error _ => false

/-- A pseudo-instruction that R48 allows: `DEC_FRAME` has at least one record and exactly `3n` bytes. -/
def Pseudo.wellFormed : Pseudo → Bool
  | .verify _ _ _ => true
  | .encFrame _ _ => true
  | .decFrame n bytes => decide (1 ≤ n) && decide (bytes.length = 3 * n)

end Sys2Proof
end

