-- ==== Sys2Proof/Machine/Assembler.lean ====
section
/-! DEFINITION. The assembler of R46, R47 and R48: text to lines, lines to operations and pseudo-instructions.
Numerals are those of 00_scope.md §5. What R46 does not say of white space and letters is log entry 10. -/

namespace Sys2Proof.Machine

/-- `;` begins a comment, and so does the `=>` that shows a line's outputs in the spec's programs (R46). -/
def stripComment : List Char → List Char
  | [] => []
  | ';' :: _ => []
  | '=' :: '>' :: _ => []
  | c :: cs => c :: stripComment cs

/-- White space inside a line (log entry 10). -/
def isBlank (c : Char) : Bool := c == ' ' || c == '\t' || c == '\r'

/-- A text without the white space around it. -/
def trimBlanks (cs : List Char) : List Char := ((cs.dropWhile isBlank).reverse.dropWhile isBlank).reverse

/-- The pieces of a text between the separators `sep`. -/
def splitAtEach (sep : Char) : List Char → List (List Char)
  | [] => [[]]
  | c :: cs =>
    match splitAtEach sep cs with
    | [] => [[c]]
    | f :: fs => if c = sep then [] :: f :: fs else (c :: f) :: fs

/-- The value of a digit in the given base. -/
def digitOf (base : Nat) (c : Char) : Option Nat :=
  let u := c.toUpper.toNat
  let d := if 48 ≤ u ∧ u ≤ 57 then some (u - 48) else if 65 ≤ u ∧ u ≤ 70 then some (u - 55) else none
  match d with
  | some v => if v < base then some v else none
  | none => none

/-- The value of a non-empty row of digits, most significant first. -/
def digitsValue (base : Nat) (acc : Nat) : List Char → Option Nat
  | [] => some acc
  | c :: cs =>
    match digitOf base c with
    | some d => digitsValue base (acc * base + d) cs
    | none => none

/-- `0x` hexadecimal, `0b` binary, other numerals decimal (00_scope.md §5). -/
def numeral : List Char → Option Nat
  | [] => none
  | '0' :: 'x' :: c :: cs => digitsValue 16 0 (c :: cs)
  | '0' :: 'b' :: c :: cs => digitsValue 2 0 (c :: cs)
  | c :: cs => digitsValue 10 0 (c :: cs)

/-- The numerals of the operand texts, or the first that is none. -/
def numerals : List (List Char) → Except AsmError (List Nat)
  | [] => .ok []
  | t :: ts =>
    match numeral (trimBlanks t), numerals ts with
    | some n, .ok ns => .ok (n :: ns)
    | none, _ => .error .badNumeral
    | _, .error e => .error e

/-- One line of text: a mnemonic, then operands separated by commas (R46); nothing for a line with no operation.
DESIGN CHOICE (log entry 10): numerals are read here, before `assemble` checks the mnemonic and the operands, so a line with
an operand that is no numeral is refused as `badNumeral` whatever else is wrong with it. -/
def readLine (text : List Char) : Except AsmError (Option AsmLine) :=
  let body := trimBlanks (stripComment text)
  let word := body.takeWhile (fun c => !isBlank c)
  let rest := trimBlanks (body.dropWhile (fun c => !isBlank c))
  if body.isEmpty then .ok none
  else if rest.isEmpty then .ok (some ⟨word, []⟩)
  else
    match numerals (splitAtEach ',' rest) with
    | .ok ns => .ok (some ⟨word, ns⟩)
    | .error e => .error e

/-- What a checked mnemonic and its operands stand for (R46, R47, R48). -/
def build : Mnemonic → List Nat → Option AsmItem
  | .checksum, [a, b] => some (.op (.checksum (BitVec.ofNat 8 a) (BitVec.ofNat 8 b)))
  | .encCmd, [v] => some (.op (.encCmd (BitVec.ofNat 16 v)))
  | .encWord, [v] => some (.op (.encWord (BitVec.ofNat 16 v)))
  | .decWord, [a, b, c] => some (.op (.decWord (BitVec.ofNat 8 a) (BitVec.ofNat 8 b) (BitVec.ofNat 8 c)))
  | .verify, [a, b, c] => some (.pseudo (.verify (BitVec.ofNat 8 a) (BitVec.ofNat 8 b) (BitVec.ofNat 8 c)))
  | .encFrame, c :: ws => some (.pseudo (.encFrame (BitVec.ofNat 16 c) (ws.map (BitVec.ofNat 16))))
  | .decFrame, n :: bs => some (.pseudo (.decFrame n (bs.map (BitVec.ofNat 8))))
  | _, _ => none

/-- Assembling a line: refused by name where R46 or R48 refuses it. Which refusal a line with several faults gets is DESIGN
CHOICE (log entry 10): the mnemonic's before the operands'. -/
def assemble (l : AsmLine) : Except AsmError AsmItem :=
  match l.check, Mnemonic.read l.mnemonic with
  | .error e, _ => .error e
  | .ok _, none => .error .unknownMnemonic
  | .ok _, some m =>
    match build m l.operands with
    | some item => .ok item
    | none => .error .wrongOperandCount

/-- Assembling a text line by line, in order (R46: one operation per line). -/
def assembleLines : List (List Char) → Except AsmError (List AsmItem)
  | [] => .ok []
  | t :: ts =>
    match readLine t with
    | .error e => .error e
    | .ok none => assembleLines ts
    | .ok (some l) =>
      match assemble l with
      | .error e => .error e
      | .ok item =>
        match assembleLines ts with
        | .error e => .error e
        | .ok items => .ok (item :: items)

/-- Assembling a whole program text. -/
def assembleText (text : List Char) : Except AsmError (List AsmItem) := assembleLines (splitAtEach '\n' text)

end Sys2Proof.Machine

namespace Sys2Proof

/-- The spelling of a mnemonic (R46, R47, R48). -/
def Mnemonic.spelling : Mnemonic → List Char
  | .checksum => "CHECKSUM".toList
  | .encCmd => "ENC_CMD".toList
  | .encWord => "ENC_WORD".toList
  | .decWord => "DEC_WORD".toList
  | .verify => "VERIFY".toList
  | .encFrame => "ENC_FRAME".toList
  | .decFrame => "DEC_FRAME".toList

/-- The line that writes an item (R46, R47, R48). -/
def AsmItem.line : AsmItem → AsmLine
  | .op (.checksum b0 b1) => ⟨Mnemonic.spelling .checksum, [b0.toNat, b1.toNat]⟩
  | .op (.encCmd v) => ⟨Mnemonic.spelling .encCmd, [v.toNat]⟩
  | .op (.encWord v) => ⟨Mnemonic.spelling .encWord, [v.toNat]⟩
  | .op (.decWord r0 r1 r2) => ⟨Mnemonic.spelling .decWord, [r0.toNat, r1.toNat, r2.toNat]⟩
  | .pseudo (.verify r0 r1 r2) => ⟨Mnemonic.spelling .verify, [r0.toNat, r1.toNat, r2.toNat]⟩
  | .pseudo (.encFrame c ws) => ⟨Mnemonic.spelling .encFrame, c.toNat :: ws.map BitVec.toNat⟩
  | .pseudo (.decFrame n bs) => ⟨Mnemonic.spelling .decFrame, n :: bs.map BitVec.toNat⟩

end Sys2Proof
end

