-- ==== Sys2Proof/Machine/Timing.lean ====
section
/-! DEFINITION. What a host does at the pins over time, one action after another (R14, R85, R89, R90, R91). -/

namespace Sys2Proof.Machine

/-- The host leaves its inputs as they are for `t` ticks from their last change. Defined inputs held for at least
`T_PROP` are evaluated (R90); a shorter hold, or an undefined input, settles nothing (R24). -/
def State.hold (t : Nat) (s : State) : Host.Outcome State Fault Refusal :=
  if s.inp.isSome && decide (Config.tProp ≤ t) then step s else .next s

/-- What the outside world can do to one instance of the block. -/
inductive HostAction where
  /-- Drive all inputs (R17). -/
  | drive (x : Inputs)
  /-- Leave some input without a defined level (R24). -/
  | release
  /-- Hold the inputs for `t` ticks from their last change (R90). -/
  | hold (t : Nat)
  /-- Sample the outputs (R90, R91). -/
  | sample
  /-- Reset the system around the block (R85). -/
  | systemReset
  /-- Remove power and bring it back (R86, R89). -/
  | powerCycle
deriving DecidableEq, Repr

/-- The state after one host action. -/
def hostAct (a : HostAction) (s : State) : Host.Outcome State Fault Refusal :=
  match a with
  | .drive x => .next (s.drive x)
  | .release => .next s.release
  | .hold t => s.hold t
  | .sample => .next s.sample.2
  | .systemReset => .next s.systemReset
  | .powerCycle => .next s.powerCycle

/-- Host actions in order, up to the first that does not answer a next state. -/
def hostRun : List HostAction → State → Host.Outcome State Fault Refusal
  | [], s => .next s
  | a :: as, s =>
    match hostAct a s with
    | .next s' => hostRun as s'
    | .fault r => .fault r
    | .refused r => .refused r

end Sys2Proof.Machine
end

