-- ==== Sys2Proof/Machine/Bank.lean ====
section
/-! DEFINITION. Several instances of the block side by side (R33, R84): they share nothing. -/

namespace Sys2Proof.Machine

/-- One host action at instance `k` of a bank; an instance that does not exist is left alone. DESIGN CHOICE (log entries 13
and 18): actions come one after another, and two instances with equal draw counters show equal unsettled samples, which
the spec does not say. -/
def bankAct (k : Nat) (a : HostAction) (bank : List State) : Host.Outcome (List State) Fault Refusal :=
  match bank[k]? with
  | none => .next bank
  | some s =>
    match hostAct a s with
    | .next s' => .next (bank.set k s')
    | .fault r => .fault r
    | .refused r => .refused r

end Sys2Proof.Machine
end

