-- ==== Sys2Proof/Machine/Frames.lean ====
section
/-! DEFINITION. What the host builds out of single evaluations: record partition (R28), command frames (R29), VERIFY (R47),
ENC_FRAME and DEC_FRAME (R48), all-or-nothing decoding (R76), and its own duty after a failure (R79). The block sees one
operation at a time. -/

namespace Sys2Proof.Machine

/-- Record `k` of a stream is bytes `3k`, `3k+1`, `3k+2`; a stream whose length is not a multiple of 3 has no partition
(R28, R32). -/
def partitionRecords : List Byte → Option (List (Byte × Byte × Byte))
  | [] => some []
  | b0 :: b1 :: b2 :: rest =>
    match partitionRecords rest with
    | some rs => some ((b0, b1, b2) :: rs)
    | none => none
  | _ => none

/-- The operation that decodes one record. -/
def decOp (r : Byte × Byte × Byte) : Instr := .decWord r.1 r.2.1 r.2.2

/-- The operations a pseudo-instruction expands to, in order (R47, R48); none for a `DEC_FRAME` that R48 refuses. -/
def expand : Pseudo → Option (List Instr)
  | .verify r0 r1 r2 => some [.decWord r0 r1 r2]
  | .encFrame c ws => some (.encCmd c :: ws.map .encWord)
  | .decFrame n bytes =>
    if 1 ≤ n ∧ bytes.length = 3 * n then (partitionRecords bytes).map (·.map decOp) else none

/-- One operation by the host: drive its word, let it settle, sample the outputs while its word is held (R14, R90, R94). -/
def hostOp (i : Instr) (s : State) : Host.Outcome (State × Reading) Fault Refusal :=
  match step (s.drive (Inputs.ofInstr i)) with
  | .next s' => .next (s'.sample.2, ⟨(Inputs.ofInstr i).op, s'.sample.1⟩)
  | .fault r => .fault r
  | .refused r => .refused r

/-- A sequence of operations by the host, each in its own evaluation (R29), and the readings in order. -/
def hostOps : List Instr → State → Host.Outcome (State × List Reading) Fault Refusal
  | [], s => .next (s, [])
  | i :: is, s =>
    match hostOp i s with
    | .next (s', r) =>
      match hostOps is s' with
      | .next (s'', rs) => .next (s'', r :: rs)
      | .fault e => .fault e
      | .refused e => .refused e
    | .fault e => .fault e
    | .refused e => .refused e

/-- `ENC_FRAME`'s result: the encoded bytes of every evaluation, concatenated (R29, R48). -/
def frameBytes (rs : List Reading) : List Byte := rs.flatMap (fun r => r.out.wireBytes)

/-- The verdicts of a row of DEC_WORD readings, in order; none when some reading is of another operation. -/
def frameVerdicts : List Reading → Option (List (Except ChecksumMismatch Word))
  | [] => some []
  | r :: rs =>
    match r.verdict, frameVerdicts rs with
    | some v, some vs => some (v :: vs)
    | _, _ => none

/-- All words if every verdict is `Ok`, else the failure with no words (R76). -/
def allOrNothing : List (Except ChecksumMismatch Word) → Except ChecksumMismatch (List Word)
  | [] => .ok []
  | .error e :: _ => .error e
  | .ok v :: rest =>
    match allOrNothing rest with
    | .error e => .error e
    | .ok vs => .ok (v :: vs)

/-- `DEC_FRAME`'s result, from the readings of its DEC_WORDs (R48, R76). -/
def frameWords (rs : List Reading) : Option (Except ChecksumMismatch (List Word)) :=
  (frameVerdicts rs).map allOrNothing

/-- `VERIFY`'s result: of its DEC_WORD only `mismatch` is read (R47). True when the record is valid. -/
def verified (r : Reading) : Bool := decide (r.op = 0b11#2 ∧ r.out.mismatch = 0#1)

/-- Verifying with CHECKSUM alone: the host compares its `crc` with the received checksum byte (R72). -/
def verifiedByChecksum (r : Reading) (r2 : Byte) : Bool := decide (r.op = 0b00#2 ∧ r.out.crc = r2)

/-- The host's duty after a response: a value derived from it is replaced only when every record was good (R79).
DESIGN CHOICE (log entry 14): that a good response derives the value anew; R79 only forbids an update after a failure. -/
def applyResponse {α : Type} (derive : List Word → α) (r : Except ChecksumMismatch (List Word)) (cached : α) : α :=
  match r with
  | .ok ws => derive ws
  | .error _ => cached

end Sys2Proof.Machine
end

