-- ==== Sys2Proof/Machine/PortTable.lean ====
section
/-! DEFINITION. The function `F` of R16 as R20's output table writes it: one row per operation, straight from the input
levels, with no operation word, decoder or dispatch in between. The machine's step is stated equal to it. -/

namespace Sys2Proof.Machine

/-- R20, row by row. -/
def portTable (x : Inputs) : Outputs :=
  if x.op = 0b00#2 then
    ⟨0x00#8, 0x00#8, 0x00#8, 0#2, crc8 x.din0 x.din1, 0x0000#16, 0#1⟩
  else if x.op = 0b01#2 then
    ⟨x.vin.extractLsb' 8 8, x.vin.extractLsb' 0 8, 0x00#8, 2#2, 0x00#8, 0x0000#16, 0#1⟩
  else if x.op = 0b10#2 then
    ⟨x.vin.extractLsb' 8 8, x.vin.extractLsb' 0 8, crc8 (x.vin.extractLsb' 8 8) (x.vin.extractLsb' 0 8), 3#2,
      crc8 (x.vin.extractLsb' 8 8) (x.vin.extractLsb' 0 8), 0x0000#16, 0#1⟩
  else if x.din2 = crc8 x.din0 x.din1 then
    ⟨0x00#8, 0x00#8, 0x00#8, 0#2, crc8 x.din0 x.din1, x.din0 ++ x.din1, 0#1⟩
  else
    ⟨0x00#8, 0x00#8, 0x00#8, 0#2, crc8 x.din0 x.din1, 0x0000#16, 1#1⟩

end Sys2Proof.Machine
end

