-- ==== Sys2Proof/Safety.lean ====
section
/-! DEFINITION. What claims call a consistent state and a ready one. -/

namespace Sys2Proof.Machine

/-- Settled outputs are `F` of the inputs that are driven, and of nothing else (R16, R23, R85); nothing is settled while
an input is undefined (R24). -/
def State.consistent (s : State) : Prop :=
  s.settled = true → ∃ x, s.inp = some x ∧ s.out = portTable x

/-- Every input is driven to a defined level: the premise of an evaluation (R24, R86). -/
def State.ready (s : State) : Prop := s.inp.isSome = true

end Sys2Proof.Machine
end

