-- ==== Sys2Proof/Certificates/Slice0/Obligations.lean ====
section
/-! DEFINITION. The statements for the provers. None of them rests on the reset levels of log entry 2, on the value of
`draws`, or on a value of a constant of Config. -/

namespace Sys2Proof.Claims

/-- How many bits of an error pattern are set (R57). -/
def weight {n : Nat} (e : BitVec n) : Nat := (List.range n).countP (fun i => e.getLsbD i)

/-- The set bits of a pattern lie within 8 consecutive positions (R57). -/
def withinEight {n : Nat} (e : BitVec n) : Prop := ∃ k, ∀ i, e.getLsbD i = true → k ≤ i ∧ i < k + 8

/-- The valid record of a word as one 24-bit value, bit 23 the first bit on the wire (R27; 95_test_vectors.md V7). -/
def record24 (v : Word) : BitVec 24 := (v ++ Machine.crc8Word v).cast rfl

/-- DEC_WORD's verdict on a 24-bit record. -/
def decode24 (r : BitVec 24) : Except Machine.ChecksumMismatch Word :=
  Machine.decodeRecord (r.extractLsb' 16 8) (r.extractLsb' 8 8) (r.extractLsb' 0 8)

/-- What a host holds after an evaluation of `i`: its `op` and the outputs of R20's row (R16, R20). -/
def reading (i : Instr) : Machine.Reading := ⟨(Machine.Inputs.ofInstr i).op, Machine.portTable (Machine.Inputs.ofInstr i)⟩

/-- The value of a row of digits, most significant first. -/
def positional (base : Nat) (ds : List Nat) : Nat := ds.foldl (fun n d => n * base + d) 0

/-- `v` read as a polynomial over GF(2): bit `i` is the coefficient of `x^i` (R52). -/
def spells {n : Nat} (v : BitVec n) (p : Polynomial (ZMod 2)) : Prop :=
  ∀ i, p.coeff i = if v.getLsbD i then 1 else 0

/-- One pass of R50's loop on numbers below 256. -/
def shiftNat (c : Nat) : Nat := if 128 ≤ c then ((2 * c) % 256) ^^^ 0x31 else (2 * c) % 256

/-- Eight passes of R50's loop. -/
def eightShifts (c : Nat) : Nat := shiftNat^[8] c

/-- The columns of R53, `col[0]` first. -/
def crcColumns : List Byte :=
  [0x31, 0x62, 0xC4, 0xB9, 0x43, 0x86, 0x3D, 0x7A, 0xF4, 0xD9, 0x83, 0x37, 0x6E, 0xDC, 0x89, 0x23]

end Sys2Proof.Claims

open Sys2Proof Sys2Proof.Machine Sys2Proof.Claims

/-! ## Encoding -/

/-- R37: the operation word is the concatenation of the ports, field by field and as a number, and nothing is lost. -/
def Obligations.OperationWordIsThePortConcatenation : Prop :=
  (∀ x : Inputs,
    x.opword.toNat = x.op.toNat * 2 ^ 40 + x.din0.toNat * 2 ^ 32 + x.din1.toNat * 2 ^ 24 + x.din2.toNat * 2 ^ 16
      + x.vin.toNat) ∧
  (∀ x : Inputs, opField x.opword = x.op ∧ din0Field x.opword = x.din0 ∧ din1Field x.opword = x.din1 ∧
    din2Field x.opword = x.din2 ∧ vinField x.opword = x.vin) ∧
  (∀ w : OpWord, (Inputs.ofOpword w).opword = w)

/-- R38, R42: each of the 2^42 words selects exactly one row of the table, the row of the operation it decodes to. -/
def Obligations.EveryWordSelectsExactlyOneRow : Prop :=
  (∀ w : OpWord, ∃! r : OpRow, r ∈ opcodeTable ∧ r.selects w = true) ∧
  (∀ (w : OpWord) (r : OpRow), r ∈ opcodeTable → r.selects w = true → (decode w).mnemonic = r.mnemonic) ∧
  (∀ w : OpWord,
    (opField w = 0b00#2 → (decode w).mnemonic = .checksum) ∧ (opField w = 0b01#2 → (decode w).mnemonic = .encCmd) ∧
    (opField w = 0b10#2 → (decode w).mnemonic = .encWord) ∧ (opField w = 0b11#2 → (decode w).mnemonic = .decWord))

/-- Decode and encode agree: an encoded instruction decodes to itself with every operand value, and encoding a decoded
word gives the word with its ignored fields zero (R39, R46). -/
def Obligations.DecodeAndEncodeAgree : Prop :=
  (∀ i : Instr, decode (encode i) = i) ∧
  (∀ w : OpWord, encode (decode w) = w &&& readMask (decode w)) ∧
  (∀ (i : Instr) (nbits : Nat), 42 ≤ nbits → decodeTableWord nbits (encode i).toNat = some i)

/-- A sanity statement on words written out in 95_test_vectors.md V3 to V6, ignored fields set and clear (R38, R39).
That a number of 43 bits is rejected, and its name, are the model's choice: log entry 11, DESIGN CHOICE. -/
def Obligations.WrittenOutWordsDecode : Prop :=
  decode 0x0BEEF5AFFFF#42 = .checksum 0xBE#8 0xEF#8 ∧ decode 0x0BEEF000000#42 = .checksum 0xBE#8 0xEF#8 ∧
  decode 0x100000021B1#42 = .encCmd 0x21B1#16 ∧ decode 0x2FFFFFFBEEF#42 = .encWord 0xBEEF#16 ∧
  decode 0x3BEEF92FFFF#42 = .decWord 0xBE#8 0xEF#8 0x92#8 ∧
  decodeBits (2 ^ 42) = .error .notAnOperationWord

/-- R40: operands are the fields themselves, chosen by `op`; no field is transformed. -/
def Obligations.OperandsAreTheFieldsUnchanged : Prop :=
  ∀ w : OpWord,
    (opField w = 0b00#2 → decode w = .checksum (w.extractLsb' 32 8) (w.extractLsb' 24 8)) ∧
    (opField w = 0b01#2 → decode w = .encCmd (w.extractLsb' 0 16)) ∧
    (opField w = 0b10#2 → decode w = .encWord (w.extractLsb' 0 16)) ∧
    (opField w = 0b11#2 →
      decode w = .decWord (w.extractLsb' 32 8) (w.extractLsb' 24 8) (w.extractLsb' 16 8) ∧
      ∀ v, decodeRecord (w.extractLsb' 32 8) (w.extractLsb' 24 8) (w.extractLsb' 16 8) = .ok v →
        v = w.extractLsb' 32 8 ++ w.extractLsb' 24 8)

/-- R39: no output depends on a field its operation ignores, and no value of one is illegal. -/
def Obligations.IgnoredFieldsNeverMatter : Prop :=
  ∀ (s : State) (x y : Inputs), x.op = y.op →
    ((x.op = 0b00#2 ∧ x.din0 = y.din0 ∧ x.din1 = y.din1) ∨ (x.op = 0b01#2 ∧ x.vin = y.vin) ∨
      (x.op = 0b10#2 ∧ x.vin = y.vin) ∨
      (x.op = 0b11#2 ∧ x.din0 = y.din0 ∧ x.din1 = y.din1 ∧ x.din2 = y.din2)) →
    ∃ t u, step { s with inp := some x } = .next t ∧ step { s with inp := some y } = .next u ∧ t.out = u.out

/-! ## The four operations -/

/-- R49 whole: CHECKSUM's encoding, assembly, outputs, corner cases and example. It completes in every state, and only
`out` and `settled` change. -/
def Obligations.ChecksumDrivesTheCrcOfItsTwoBytes : Prop :=
  (∀ (b0 b1 : Byte) (s : State), exec (.checksum b0 b1) s =
    .next { s with out := ⟨0x00#8, 0x00#8, 0x00#8, 0#2, crc8 b0 b1, 0x0000#16, 0#1⟩, settled := true }) ∧
  (∀ (x : Inputs) (s : State), s.inp = some x → x.op = 0b00#2 → step s = exec (.checksum x.din0 x.din1) s) ∧
  (∀ b0 b1 : Byte, assemble ⟨"CHECKSUM".toList, [b0.toNat, b1.toNat]⟩ = .ok (.op (.checksum b0 b1))) ∧
  crc8 0x00#8 0x00#8 = 0x81#8 ∧ crc8 0xFF#8 0xFF#8 = 0xAC#8 ∧
  Nat.card { p : Byte × Byte // crc8 p.1 p.2 = 0x00#8 } = 256 ∧
  crc8 0xFF#8 0x00#8 = 0x00#8 ∧ crc8 0x03#8 0xFF#8 = 0x00#8 ∧ crc8 0xBE#8 0xEF#8 = 0x92#8

/-- R60 whole: ENC_CMD's encoding, assembly, outputs, corner cases and example, for every code. -/
def Obligations.EncCmdDrivesTheTwoBytesOfTheCode : Prop :=
  (∀ (v : Word) (s : State), exec (.encCmd v) s =
    .next { s with out := ⟨v.extractLsb' 8 8, v.extractLsb' 0 8, 0x00#8, 2#2, 0x00#8, 0x0000#16, 0#1⟩,
                   settled := true }) ∧
  (∀ (x : Inputs) (s : State), s.inp = some x → x.op = 0b01#2 → step s = exec (.encCmd x.vin) s) ∧
  (∀ v : Word, assemble ⟨"ENC_CMD".toList, [v.toNat]⟩ = .ok (.op (.encCmd v))) ∧
  (∀ (s : State), (∃ t, exec (.encCmd 0x0000#16) s = .next t ∧ t.out.dout0 = 0x00#8 ∧ t.out.dout1 = 0x00#8) ∧
    (∃ t, exec (.encCmd 0xFFFF#16) s = .next t ∧ t.out.dout0 = 0xFF#8 ∧ t.out.dout1 = 0xFF#8) ∧
    (∃ t, exec (.encCmd 0x21B1#16) s = .next t ∧ t.out.dout0 = 0x21#8 ∧ t.out.dout1 = 0xB1#8 ∧ t.out.dlen = 2#2))

/-- R62 whole: ENC_WORD's encoding, assembly, outputs, corner cases and example. -/
def Obligations.EncWordDrivesTheWireRecord : Prop :=
  (∀ (v : Word) (s : State), exec (.encWord v) s =
    .next { s with out := ⟨v.extractLsb' 8 8, v.extractLsb' 0 8, crc8 (v.extractLsb' 8 8) (v.extractLsb' 0 8), 3#2,
                           crc8 (v.extractLsb' 8 8) (v.extractLsb' 0 8), 0x0000#16, 0#1⟩,
                   settled := true }) ∧
  (∀ (x : Inputs) (s : State), s.inp = some x → x.op = 0b10#2 → step s = exec (.encWord x.vin) s) ∧
  (∀ v : Word, assemble ⟨"ENC_WORD".toList, [v.toNat]⟩ = .ok (.op (.encWord v))) ∧
  (∀ (v : Word) (s : State), ∃ t u, exec (.encWord v) s = .next t ∧ exec (.encCmd v) s = .next u ∧
    t.out.dout0 = u.out.dout0 ∧ t.out.dout1 = u.out.dout1) ∧
  encodeRecord 0x0000#16 = (0x00#8, 0x00#8, 0x81#8) ∧ encodeRecord 0xFFFF#16 = (0xFF#8, 0xFF#8, 0xAC#8) ∧
  encodeRecord 0xFF00#16 = (0xFF#8, 0x00#8, 0x00#8) ∧ encodeRecord 0x03FF#16 = (0x03#8, 0xFF#8, 0x00#8) ∧
  encodeRecord 0xBEEF#16 = (0xBE#8, 0xEF#8, 0x92#8) ∧
  (∀ (v : Word) (s : State), ∃ t, exec (.encWord v) s = .next t ∧
    (t.out.dout0, t.out.dout1, t.out.dout2) = encodeRecord v)

/-- R65 whole: DEC_WORD's encoding, assembly, both outcomes, corner cases and examples. -/
def Obligations.DecWordAcceptsOrReportsTheRecord : Prop :=
  (∀ (r0 r1 r2 : Byte) (s : State), crc8 r0 r1 ≠ r2 → exec (.decWord r0 r1 r2) s =
    .next { s with out := ⟨0x00#8, 0x00#8, 0x00#8, 0#2, crc8 r0 r1, 0x0000#16, 1#1⟩, settled := true }) ∧
  (∀ (r0 r1 r2 : Byte) (s : State), crc8 r0 r1 = r2 → exec (.decWord r0 r1 r2) s =
    .next { s with out := ⟨0x00#8, 0x00#8, 0x00#8, 0#2, crc8 r0 r1, r0 ++ r1, 0#1⟩, settled := true }) ∧
  (∀ (x : Inputs) (s : State), s.inp = some x → x.op = 0b11#2 →
    step s = exec (.decWord x.din0 x.din1 x.din2) s) ∧
  (∀ r0 r1 r2 : Byte,
    assemble ⟨"DEC_WORD".toList, [r0.toNat, r1.toNat, r2.toNat]⟩ = .ok (.op (.decWord r0 r1 r2))) ∧
  (∀ (r0 r1 r2 : Byte) (s : State), ∃ t, exec (.decWord r0 r1 r2) s = .next t ∧
    Reading.verdict ⟨0b11#2, t.out⟩ = some (decodeRecord r0 r1 r2)) ∧
  decodeRecord 0x00#8 0x00#8 0x81#8 = .ok 0x0000#16 ∧ decodeRecord 0x00#8 0x00#8 0x00#8 = .error .checksumMismatch ∧
  decodeRecord 0xFF#8 0xFF#8 0xAC#8 = .ok 0xFFFF#16 ∧ decodeRecord 0xFF#8 0xFF#8 0xFF#8 = .error .checksumMismatch ∧
  decodeRecord 0xFF#8 0x00#8 0x00#8 = .ok 0xFF00#16 ∧
  decodeRecord 0xBE#8 0xEF#8 0x92#8 = .ok 0xBEEF#16 ∧ decodeRecord 0xBE#8 0xEF#8 0x93#8 = .error .checksumMismatch

/-- The frame of the four operations (CHECKSUM, ENC_CMD, ENC_WORD, DEC_WORD), and that each completes in every state on
every operand (R2, R7): the inputs and the model's own counter stay as they were (R34). There is no register and no memory
to change (R13, R25); a later evaluation sees none of what this one drove. -/
def Obligations.OperationsCompleteAndChangeOnlyOutputs : Prop :=
  (∀ (i : Instr) (s : State), ∃ t, exec i s = .next t ∧ t.inp = s.inp ∧ t.draws = s.draws ∧ t.settled = true) ∧
  (∀ (i : Instr) (s u : State), ∃ t v, exec i s = .next t ∧ exec i u = .next v ∧ t.out = v.out)

/-! ## The step -/

/-- A step runs the decoded operation word; placing a word on the inputs makes the next step run it (R14, R37). -/
def Obligations.StepRunsTheDecodedOperation : Prop :=
  (∀ (s : State) (x : Inputs), s.inp = some x → step s = exec (decode x.opword) s) ∧
  (∀ (s : State) (w : OpWord) (nbits : Nat), 42 ≤ nbits →
    (s.withFetchWord nbits w.toNat).inp = some (Inputs.ofOpword w) ∧
    step (s.withFetchWord nbits w.toNat) = exec (decode w) (s.withFetchWord nbits w.toNat)) ∧
  (∀ (s : State) (i : Instr), step (s.drive (Inputs.ofInstr i)) = exec i (s.drive (Inputs.ofInstr i)))

/-- R16, R20: the machine with its decoder, dispatch and four meanings is the output table, for all inputs. -/
def Obligations.StepIsTheOutputTable : Prop :=
  ∀ (s : State) (x : Inputs), s.inp = some x → step s = .next { s with out := portTable x, settled := true }

/-- Settled outputs are `F` of the driven inputs, after every step and every host action, from every such state. -/
def Obligations.StepsAndHostActionsKeepOutputsConsistent : Prop :=
  (∀ s t : State, s.consistent → step s = .next t → t.consistent) ∧
  (∀ (s t : State) (a : HostAction), s.consistent → hostAct a s = .next t → t.consistent) ∧
  (∀ (s t : State) (as : List HostAction), s.consistent → hostRun as s = .next t → t.consistent)

/-- The reset and power-up states are consistent, whatever levels the reset state drives. -/
def Obligations.ResetStateIsConsistent : Prop := State.reset.consistent ∧ State.powerUp.consistent

/-- R22: two evaluations of equal inputs drive equal outputs, whatever either instance went through before, the table's. -/
def Obligations.NoEvaluationDependsOnAnEarlierOne : Prop :=
  ∀ (as bs : List HostAction) (s r : State) (x : Inputs) (t u : Nat), Config.tProp ≤ t → Config.tProp ≤ u →
    ∃ s' r', hostRun (as ++ [.drive x, .hold t]) s = .next s' ∧ hostRun (bs ++ [.drive x, .hold u]) r = .next r' ∧
      s'.sample.1 = r'.sample.1 ∧ s'.sample.1 = portTable x

/-- R34: an evaluation has no side effect, and any sequence of operations in any order, with any repetition, gives each
operation the outputs it has on its own. -/
def Obligations.EvaluationsAreRepeatableInAnyOrder : Prop :=
  (∀ s t : State, step s = .next t → step t = .next t ∧ t.inp = s.inp ∧ t.draws = s.draws) ∧
  (∀ (is : List Instr) (s : State), ∃ s',
    hostOps is s = .next (s', is.map reading))

/-- R55: the checksum of two evaluations with the same two bytes is the same, whatever else differs. -/
def Obligations.ChecksumDependsOnItsTwoBytesOnly : Prop :=
  ∀ (s r : State) (x y : Inputs), s.inp = some x → r.inp = some y → x.op = 0b00#2 → y.op = 0b00#2 →
    x.din0 = y.din0 → x.din1 = y.din1 →
    ∃ t u, step s = .next t ∧ step r = .next u ∧ t.out.crc = u.out.crc

/-- Several instances share nothing: an action at one is the action it would be alone, and no other changes (R33, R84). -/
def Obligations.InstancesAreIndependent : Prop :=
  ∀ (bank : List State) (k : Nat) (a : HostAction) (s : State), bank[k]? = some s →
    ∃ bank' s', bankAct k a bank = .next bank' ∧ hostAct a s = .next s' ∧ bank'[k]? = some s' ∧
      bank'.length = bank.length ∧ ∀ j, j ≠ k → bank'[j]? = bank[j]?

/-- The block never stops (R2, R42, R81): with defined inputs every step answers a state that is ready again, inputs
undefined are the one refusal, and every run of host actions ends in a state. -/
def Obligations.NothingStopsTheBlockButUndefinedInputs : Prop :=
  (∀ s : State, s.ready → ∃ t, step s = .next t ∧ t.ready) ∧
  (∀ s : State, ¬ s.ready → step s = .refused .undefinedInputs) ∧
  (∀ (as : List HostAction) (s : State), ∃ t, hostRun as s = .next t)

/-! ## Settling, reset and power -/

/-- R90: outputs are valid once defined inputs have been held for `T_PROP`; before, a sample is any value. That `T_PROP` is
positive is D11 and log entry 5. That a shorter hold of a state that is not settled settles nothing, however many such
holds there are, is the model's choice (log entries 4 and 5, DESIGN CHOICE). -/
def Obligations.HoldingForTPropSettlesTheOutputs : Prop :=
  0 < Config.tProp ∧
  (∀ (s : State) (x : Inputs) (t : Nat), s.inp = some x → Config.tProp ≤ t →
    ∃ s', s.hold t = .next s' ∧ s'.inp = some x ∧ s'.sample = (portTable x, s')) ∧
  (∀ (s : State) (t : Nat), t < Config.tProp → s.settled = false →
    ∃ s', s.hold t = .next s' ∧ s'.sample.1 = freeOutputs s'.draws)

/-- R24, R91: while an input is undefined, or after one has changed, every output is any value until defined inputs have
been stable for `T_PROP`; a step on undefined inputs is refused. -/
def Obligations.UndefinedOrChangedInputsGiveAnyOutput : Prop :=
  (∀ s : State, s.inp = none → step s = .refused .undefinedInputs) ∧
  (∀ s : State, s.release.sample.1 = freeOutputs s.draws ∧ ∀ t, s.release.hold t = .next s.release) ∧
  (∀ (s : State) (x : Inputs), s.inp ≠ some x → (s.drive x).sample.1 = freeOutputs s.draws) ∧
  (∀ (s : State) (x : Inputs) (b : BitVec 2), s.inp = some x → b ≠ x.op →
    (s.drive { x with op := b }).sample.1 = freeOutputs s.draws) ∧
  (∀ (s : State) (x : Inputs) (t : Nat), Config.tProp ≤ t →
    ∃ s', (s.release.drive x).hold t = .next s' ∧ s'.sample.1 = portTable x)

/-- R85: a reset of the system changes nothing, and settled outputs are `F` of the inputs before and after it. -/
def Obligations.SystemResetChangesNothing : Prop :=
  (∀ s : State, hostAct .systemReset s = .next s) ∧
  (∀ (s : State) (x : Inputs), s.consistent → s.settled = true → s.inp = some x →
    s.sample.1 = portTable x ∧ ∃ s', hostAct .systemReset s = .next s' ∧ s'.sample.1 = portTable x)

/-- R86, R89: at power-up the outputs carry no meaning until the inputs are driven and stable, then they are `F` of them;
nothing of what the block showed before a power cycle survives it. That the model's own counter `draws` goes on across the
power cycle, so that the first clause reads `s.draws` and the second asks equal counters, is the model's choice (log
entries 4 and 15, DESIGN CHOICE). -/
def Obligations.PowerUpMeansNothingUntilInputsSettle : Prop :=
  (∀ s : State, s.powerCycle.sample.1 = freeOutputs s.draws ∧ step s.powerCycle = .refused .undefinedInputs) ∧
  (∀ s r : State, s.draws = r.draws → s.powerCycle = r.powerCycle) ∧
  (∀ (s : State) (x : Inputs) (t : Nat), Config.tProp ≤ t →
    ∃ s', hostRun [.powerCycle, .drive x, .hold t] s = .next s' ∧ s'.sample.1 = portTable x)

/-! ## ChecksumMismatch -/

/-- R21: `mismatch` is 1 exactly when a DEC_WORD's third byte disagrees; it is recomputed by every evaluation, and a
sample that shows 1 gives no word. -/
def Obligations.MismatchIsALevelOfTheCurrentInputs : Prop :=
  ∀ (s : State) (x : Inputs), s.inp = some x →
    ∃ t, step s = .next t ∧
      (t.out.mismatch = 1#1 ↔ x.op = 0b11#2 ∧ x.din2 ≠ crc8 x.din0 x.din1) ∧
      (t.out.mismatch = 1#1 ↔ Reading.verdict ⟨x.op, t.sample.1⟩ = some (.error .checksumMismatch)) ∧
      ∀ y : Inputs, ∃ u, step (t.drive y) = .next u ∧
        (u.out.mismatch = 1#1 ↔ y.op = 0b11#2 ∧ y.din2 ≠ crc8 y.din0 y.din1)

/-- R73: only DEC_WORD raises ChecksumMismatch, exactly when the checksums differ. -/
def Obligations.OnlyDecWordRaisesChecksumMismatch : Prop :=
  ∀ (i : Instr) (s : State), ∃ t, exec i s = .next t ∧
    (t.out.mismatch = 1#1 ↔ ∃ r0 r1 r2, i = .decWord r0 r1 r2 ∧ crc8 r0 r1 ≠ r2)

/-- R74: what the ports show on a ChecksumMismatch; the record's bytes stay on the inputs. -/
def Obligations.MismatchReportShowsTheRecomputedChecksum : Prop :=
  ∀ (s : State) (x : Inputs), s.inp = some x → x.op = 0b11#2 → x.din2 ≠ crc8 x.din0 x.din1 →
    ∃ t, step s = .next t ∧ t.out.mismatch = 1#1 ∧ t.out.crc = crc8 x.din0 x.din1 ∧ t.out.vout = 0x0000#16 ∧
      t.out.dout0 = 0x00#8 ∧ t.out.dout1 = 0x00#8 ∧ t.out.dout2 = 0x00#8 ∧ t.out.dlen = 0#2 ∧ t.inp = some x

/-- R75: the cause code is 0 or 1; 1 is ChecksumMismatch and belongs to DEC_WORD on an invalid record, 0 is success. -/
def Obligations.CauseCodeIsZeroOrOne : Prop :=
  ∀ (i : Instr) (s : State), ∃ t, exec i s = .next t ∧ (causeCode t.out = 0 ∨ causeCode t.out = 1) ∧
    (causeCode t.out = 1 ↔ ∃ r0 r1 r2, i = .decWord r0 r1 r2 ∧ decodeRecord r0 r1 r2 = .error .checksumMismatch) ∧
    (causeCode t.out = 0 ↔ ∀ r0 r1 r2, i = .decWord r0 r1 r2 → ∃ v, decodeRecord r0 r1 r2 = .ok v)

/-- After a ChecksumMismatch nothing is saved or switched and the next evaluation starts clean (R81). -/
def Obligations.NextEvaluationAfterMismatchStartsClean : Prop :=
  ∀ (s : State) (r0 r1 r2 : Byte) (y : Inputs), crc8 r0 r1 ≠ r2 →
    ∃ t u, exec (.decWord r0 r1 r2) s = .next t ∧ t.inp = s.inp ∧ t.draws = s.draws ∧
      step (t.drive y) = .next u ∧ u.out = portTable y

/-- The word and its verdict come from one sample of settled outputs (R67, R94), and a sample of any other operation gives
no verdict: its `vout` means nothing (R18, R20). -/
def Obligations.OneSampleGivesTheWordAndItsVerdict : Prop :=
  ∀ (s : State) (x : Inputs), s.consistent → s.settled = true → s.inp = some x →
    (x.op = 0b11#2 →
      Reading.verdict ⟨x.op, s.sample.1⟩ = some (decodeRecord x.din0 x.din1 x.din2) ∧
      ∀ v, Reading.verdict ⟨x.op, s.sample.1⟩ = some (.ok v) → v = x.din0 ++ x.din1 ∧ s.sample.1.vout = v) ∧
    (x.op ≠ 0b11#2 → Reading.verdict ⟨x.op, s.sample.1⟩ = none)

/-- R18, R20: a host's operation gives a verdict if and only if it is a DEC_WORD, and a word if and only if it is a DEC_WORD
of a valid record, that record's word (R67). The zero that the other operations drive on `vout` is no word. -/
def Obligations.WordsComeFromDecWordOnly : Prop :=
  ∀ (i : Instr) (s : State), ∃ s' r, hostOp i s = .next (s', r) ∧
    ((∃ v, r.verdict = some v) ↔ ∃ r0 r1 r2, i = .decWord r0 r1 r2) ∧
    ∀ v, r.verdict = some (.ok v) ↔ ∃ r0 r1 r2, i = .decWord r0 r1 r2 ∧ decodeRecord r0 r1 r2 = .ok v

/-! ## Byte order and the wire -/

/-- R26: a word and its two bytes are related big-endian in both directions, for codes and for data words. -/
def Obligations.WordsAreBigEndianBothWays : Prop :=
  (∀ v : Word, v.toNat = (hiByte v).toNat * 256 + (loByte v).toNat ∧ joinBytes (hiByte v) (loByte v) = v) ∧
  (∀ r0 r1 : Byte, joinBytes r0 r1 = (r0.setWidth 16 <<< 8) ||| r1.setWidth 16 ∧
    hiByte (joinBytes r0 r1) = r0 ∧ loByte (joinBytes r0 r1) = r1) ∧
  (∀ (v : Word) (s : State), ∃ t u, exec (.encCmd v) s = .next t ∧ exec (.encWord v) s = .next u ∧
    joinBytes t.out.dout0 t.out.dout1 = v ∧ joinBytes u.out.dout0 u.out.dout1 = v) ∧
  (∀ (r0 r1 : Byte) (s : State), ∃ t, exec (.decWord r0 r1 (crc8 r0 r1)) s = .next t ∧ t.out.vout = joinBytes r0 r1)

/-- R27, R61, R63: an encoded data word is its two data bytes and their checksum; an encoded command is two bytes. -/
def Obligations.RecordsCarryTheirChecksumAndCommandsDoNot : Prop :=
  (∀ (v : Word) (s : State), ∃ t, exec (.encWord v) s = .next t ∧
    t.out.wireBytes = [v.extractLsb' 8 8, v.extractLsb' 0 8, crc8 (v.extractLsb' 8 8) (v.extractLsb' 0 8)] ∧
    t.out.dout2 = crc8 t.out.dout0 t.out.dout1) ∧
  (∀ (v : Word) (s : State), ∃ t, exec (.encCmd v) s = .next t ∧
    t.out.wireBytes = [v.extractLsb' 8 8, v.extractLsb' 0 8])

/-- R71: the first two bytes of ENC_WORD and ENC_CMD are the same. -/
def Obligations.DataWordsAreSpelledLikeCommands : Prop :=
  ∀ (v : Word) (s r : State), ∃ t u, exec (.encWord v) s = .next t ∧ exec (.encCmd v) r = .next u ∧
    t.out.dout0 = u.out.dout0 ∧ t.out.dout1 = u.out.dout1 ∧ u.out.wireBytes = t.out.wireBytes.take 2

/-- Lane `i` is wire position `i`, inputs and outputs, and `dlen` says how many encoded bytes are valid: 0, 2 or 3
(R18, R19, R31). -/
def Obligations.LanesAreWirePositions : Prop :=
  (∀ r0 r1 r2 : Byte, (Inputs.ofInstr (.decWord r0 r1 r2)).din0 = r0 ∧
    (Inputs.ofInstr (.decWord r0 r1 r2)).din1 = r1 ∧ (Inputs.ofInstr (.decWord r0 r1 r2)).din2 = r2) ∧
  (∀ (s : State) (x : Inputs), s.inp = some x → ∃ t, step s = .next t ∧
    t.out.wireBytes.length = t.out.dlen.toNat ∧
    t.out.dlen.toNat = (if x.op = 0b01#2 then 2 else if x.op = 0b10#2 then 3 else 0) ∧
    ∀ k b, t.out.wireBytes[k]? = some b →
      (k = 0 ∧ b = t.out.dout0) ∨ (k = 1 ∧ b = t.out.dout1) ∨ (k = 2 ∧ b = t.out.dout2))

/-- R28: record `k` of a stream is bytes `3k` to `3k+2`, and `N` records are exactly `3N` bytes. -/
def Obligations.RecordsSitAtMultiplesOfThree : Prop :=
  ∀ bytes : List Byte,
    (∀ rs, partitionRecords bytes = some rs →
      bytes.length = 3 * rs.length ∧
      ∀ k r, rs[k]? = some r →
        bytes[3 * k]? = some r.1 ∧ bytes[3 * k + 1]? = some r.2.1 ∧ bytes[3 * k + 2]? = some r.2.2 ∧
        (Inputs.ofInstr (decOp r)).din0 = r.1 ∧ (Inputs.ofInstr (decOp r)).din1 = r.2.1 ∧
        (Inputs.ofInstr (decOp r)).din2 = r.2.2) ∧
    ((∃ rs, partitionRecords bytes = some rs) ↔ 3 ∣ bytes.length)

/-- R32: a misaligned length has no partition, the block raises no alignment fault, and it accepts a misplaced record
whenever its third byte happens to be the checksum of its first two, which does happen between good records. -/
def Obligations.MisplacedRecordsCanBeAccepted : Prop :=
  (∀ bytes : List Byte, partitionRecords bytes = none ↔ ¬ 3 ∣ bytes.length) ∧
  (∀ (b0 b1 b2 : Byte) (s : State), ∃ t, exec (.decWord b0 b1 b2) s = .next t ∧
    ((∃ v, Reading.verdict ⟨0b11#2, t.out⟩ = some (.ok v)) ↔ b2 = crc8 b0 b1)) ∧
  (∀ a b d : Byte, ∃ c : Byte, ∀ s : State,
    (∃ s' rs, hostOps [.decWord a b (crc8 a b), .decWord c d (crc8 c d)] s = .next (s', rs) ∧
      frameWords rs = some (.ok [a ++ b, c ++ d])) ∧
    ∃ t, exec (.decWord b (crc8 a b) c) s = .next t ∧ Reading.verdict ⟨0b11#2, t.out⟩ = some (.ok (b ++ crc8 a b)))

/-- R29: a command write is the two command bytes, then each payload word's record, in order: `2 + 3n` bytes. -/
def Obligations.CommandFrameIsCommandThenRecords : Prop :=
  ∀ (c : Word) (ws : List Word) (s : State), ∃ is s' os,
    expand (.encFrame c ws) = some is ∧ hostOps is s = .next (s', os) ∧
    frameBytes os = [hiByte c, loByte c] ++ ws.flatMap (fun w => [hiByte w, loByte w, crc8 (hiByte w) (loByte w)]) ∧
    (frameBytes os).length = 2 + 3 * ws.length

/-- R76: a response of several records is decoded one record per evaluation, and one bad record fails all of it. -/
def Obligations.OneBadRecordFailsTheWholeResponse : Prop :=
  ∀ (n : Nat) (bytes : List Byte) (s : State), 1 ≤ n → bytes.length = 3 * n →
    ∃ is rs s' os, expand (.decFrame n bytes) = some is ∧ partitionRecords bytes = some rs ∧ is = rs.map decOp ∧
      hostOps is s = .next (s', os) ∧
      ((∀ r ∈ rs, r.2.2 = crc8 r.1 r.2.1) → frameWords os = some (.ok (rs.map (fun r => r.1 ++ r.2.1)))) ∧
      ((∃ r ∈ rs, r.2.2 ≠ crc8 r.1 r.2.1) → frameWords os = some (.error .checksumMismatch))

/-- R48: the two frame pseudo-instructions. ENC_FRAME is ENC_CMD then the ENC_WORDs, and its result the byte string of R29.
DEC_FRAME is the DEC_WORDs of its records in order, and its result all words or the failure (R76). A DEC_FRAME with another
byte count, or of no record, is no expansion and its line is refused. Decoding the records of an encoded frame gives its
payload words back. The names of the refusals, and that a line of no record is refused whatever its length, are the model's
choice (log entry 10, DESIGN CHOICE). -/
def Obligations.FramesExpandCombineAndRoundTrip : Prop :=
  (∀ (c : Word) (ws : List Word), expand (.encFrame c ws) = some (.encCmd c :: ws.map .encWord)) ∧
  (∀ (c : Word) (ws : List Word) (s : State), ∃ s' os,
    hostOps (.encCmd c :: ws.map .encWord) s = .next (s', os) ∧
    frameBytes os = [hiByte c, loByte c] ++ ws.flatMap (fun w => [hiByte w, loByte w, crc8 (hiByte w) (loByte w)])) ∧
  (∀ (n : Nat) (bytes : List Byte), 1 ≤ n → bytes.length = 3 * n → ∃ rs, partitionRecords bytes = some rs ∧
    rs.length = n ∧ expand (.decFrame n bytes) = some (rs.map (fun r => .decWord r.1 r.2.1 r.2.2))) ∧
  (∀ (n : Nat) (bytes : List Byte), n = 0 ∨ bytes.length ≠ 3 * n → expand (.decFrame n bytes) = none) ∧
  (∀ (n : Nat) (bytes : List Byte), 1 ≤ n → bytes.length ≠ 3 * n →
    assemble (AsmItem.pseudo (.decFrame n bytes)).line = .error .frameLength) ∧
  (∀ bytes : List Byte, assemble (AsmItem.pseudo (.decFrame 0 bytes)).line = .error .emptyFrame) ∧
  (∀ (rs : List Reading) (vs : List Word),
    frameWords rs = some (.ok vs) ↔ rs.map Reading.verdict = vs.map (fun v => some (.ok v))) ∧
  (∀ rs : List Reading, frameWords rs = some (.error .checksumMismatch) ↔
    (∀ r ∈ rs, r.op = 0b11#2) ∧ ∃ r ∈ rs, r.verdict = some (.error .checksumMismatch)) ∧
  (∀ rs : List Reading, frameWords rs = none ↔ ∃ r ∈ rs, r.op ≠ 0b11#2) ∧
  (∀ (c : Word) (ws : List Word) (s : State), ws ≠ [] →
    ∃ is s' os js s'' qs, expand (.encFrame c ws) = some is ∧ hostOps is s = .next (s', os) ∧
      expand (.decFrame ws.length ((frameBytes os).drop 2)) = some js ∧ hostOps js s' = .next (s'', qs) ∧
      frameWords qs = some (.ok ws))

/-- R79: after a failed response a value derived from responses is what it was. That a good response derives it anew is
`applyResponse`, the model's choice (log entry 14, DESIGN CHOICE), which R79 does not oblige. -/
def Obligations.FailedResponseUpdatesNothing : Prop :=
  ∀ (α : Type) (derive : List Word → α) (cached : α) (n : Nat) (bytes : List Byte) (s : State),
    1 ≤ n → bytes.length = 3 * n →
    ∃ is rs s' os res, expand (.decFrame n bytes) = some is ∧ partitionRecords bytes = some rs ∧
      hostOps is s = .next (s', os) ∧ frameWords os = some res ∧
      ((∃ r ∈ rs, r.2.2 ≠ crc8 r.1 r.2.1) → applyResponse derive res cached = cached) ∧
      ((∀ r ∈ rs, r.2.2 = crc8 r.1 r.2.1) →
        applyResponse derive res cached = derive (rs.map (fun r => r.1 ++ r.2.1)))

/-- R47: VERIFY expands to one DEC_WORD, of which only `mismatch` is read. -/
def Obligations.VerifyReadsTheMismatchOfDecWord : Prop :=
  ∀ (r0 r1 r2 : Byte) (s : State), expand (.verify r0 r1 r2) = some [.decWord r0 r1 r2] ∧
    ∃ s' o, hostOps [.decWord r0 r1 r2] s = .next (s', [o]) ∧ (verified o = true ↔ r2 = crc8 r0 r1)

/-- R72: a host with CHECKSUM alone reaches the verdict of DEC_WORD. -/
def Obligations.ChecksumAloneVerifiesARecord : Prop :=
  ∀ (r0 r1 r2 : Byte) (s u : State), ∃ s' u' o p,
    hostOp (.checksum r0 r1) s = .next (s', o) ∧ hostOp (.decWord r0 r1 r2) u = .next (u', p) ∧
    (verifiedByChecksum o r2 = true ↔ ∃ v, p.verdict = some (.ok v))

/-- R46, R47, R48: the lines of the assembler. Every operation and pseudo-instruction has its line; an accepted line is the
line of what it gives; the seven mnemonics' lines are refused for a wrong operand count or an operand out of range;
ignored fields are assembled as zero; letter case and comments change nothing; a line of text is its mnemonic and, after
blanks, its comma-separated numerals; a program is its lines in order, refused at its first bad line. What counts as a
blank, the name `badNumeral`, and that it comes before every other refusal of a line, are the model's choice (log entry 10,
DESIGN CHOICE). -/
def Obligations.AssemblerReadsItsLines : Prop :=
  (∀ i : Instr, assemble (AsmItem.op i).line = .ok (.op i)) ∧
  (∀ p : Pseudo, p.wellFormed = true → assemble (AsmItem.pseudo p).line = .ok (.pseudo p)) ∧
  (∀ (l : AsmLine) (it : AsmItem), assemble l = .ok it →
    it.line.mnemonic = l.mnemonic.map Char.toUpper ∧ it.line.operands = l.operands) ∧
  (∀ ops : List Nat,
    ((∃ it, assemble ⟨"CHECKSUM".toList, ops⟩ = .ok it) ↔ ops.length = 2 ∧ ∀ n ∈ ops, n ≤ 0xFF) ∧
    ((∃ it, assemble ⟨"ENC_CMD".toList, ops⟩ = .ok it) ↔ ops.length = 1 ∧ ∀ n ∈ ops, n ≤ 0xFFFF) ∧
    ((∃ it, assemble ⟨"ENC_WORD".toList, ops⟩ = .ok it) ↔ ops.length = 1 ∧ ∀ n ∈ ops, n ≤ 0xFFFF) ∧
    ((∃ it, assemble ⟨"DEC_WORD".toList, ops⟩ = .ok it) ↔ ops.length = 3 ∧ ∀ n ∈ ops, n ≤ 0xFF) ∧
    ((∃ it, assemble ⟨"VERIFY".toList, ops⟩ = .ok it) ↔ ops.length = 3 ∧ ∀ n ∈ ops, n ≤ 0xFF) ∧
    ((∃ it, assemble ⟨"ENC_FRAME".toList, ops⟩ = .ok it) ↔ ops ≠ [] ∧ ∀ n ∈ ops, n ≤ 0xFFFF) ∧
    ((∃ it, assemble ⟨"DEC_FRAME".toList, ops⟩ = .ok it) ↔
      ∃ n bytes, ops = n :: bytes ∧ 1 ≤ n ∧ bytes.length = 3 * n ∧ ∀ b ∈ bytes, b ≤ 0xFF)) ∧
  (∀ b0 b1 b2 : Byte, ∀ v : Word,
    encode (.checksum b0 b1) = opWordOf 0b00#2 b0 b1 0x00#8 0x0000#16 ∧
    encode (.encCmd v) = opWordOf 0b01#2 0x00#8 0x00#8 0x00#8 v ∧
    encode (.encWord v) = opWordOf 0b10#2 0x00#8 0x00#8 0x00#8 v ∧
    encode (.decWord b0 b1 b2) = opWordOf 0b11#2 b0 b1 b2 0x0000#16) ∧
  (∀ (cs ds : List Char) (ops : List Nat), cs.map Char.toUpper = ds.map Char.toUpper →
    assemble ⟨cs, ops⟩ = assemble ⟨ds, ops⟩) ∧
  (∀ text comment : List Char, readLine (text ++ ';' :: comment) = readLine text ∧
    readLine (text ++ '=' :: '>' :: comment) = readLine text) ∧
  (∀ (word gap pad : List Char) (ts : List (List Char)),
    word ≠ [] → (∀ c ∈ word, c.isAlphanum = true ∨ c = '_') → gap ≠ [] → (∀ c ∈ gap ++ pad, isBlank c = true) →
    ts ≠ [] → (∀ t ∈ ts, t ≠ [] ∧ ∀ c ∈ t, c.isAlphanum = true) →
    (∀ ns, ts.map numeral = ns.map some →
      readLine (word ++ gap ++ List.intercalate (',' :: pad) ts) = .ok (some ⟨word, ns⟩)) ∧
    ((∃ t ∈ ts, numeral t = none) →
      readLine (word ++ gap ++ List.intercalate (',' :: pad) ts) = .error .badNumeral) ∧
    readLine (word ++ pad) = .ok (some ⟨word, []⟩) ∧ readLine pad = .ok none) ∧
  (∀ text : List Char, '\n' ∉ text → assembleText text =
    match readLine text with
    | .error e => .error e
    | .ok none => .ok []
    | .ok (some l) => (assemble l).map (fun item => [item])) ∧
  (∀ a b : List Char, assembleText (a ++ '\n' :: b) =
    match assembleText a with
    | .error e => .error e
    | .ok xs => (assembleText b).map (fun ys => xs ++ ys)) ∧
  assembleText "CHECKSUM  0xBE, 239      ; => crc=92\nEnc_Frame 0x21B1,0b11\n\nVERIFY 190, 0xef,0x92".toList =
    .ok [.op (.checksum 0xBE#8 0xEF#8), .pseudo (.encFrame 0x21B1#16 [0x0003#16]),
      .pseudo (.verify 0xBE#8 0xEF#8 0x92#8)]

/-- The numerals of 00_scope.md section 5, and nothing else: decimal digits, `0x` and hexadecimal digits, `0b` and binary
digits, each the positional value of its digits. That hexadecimal digits may be of either case and the prefixes are in lower
case is the model's choice (log entry 10, DESIGN CHOICE). -/
def Obligations.NumeralsAreTheNotationOfTheSpec : Prop :=
  ∀ (t : List Char) (n : Nat), numeral t = some n ↔ ∃ (ds : List Nat) (us : List Char), ds ≠ [] ∧
    us.map Char.toUpper = ds.map (fun d => (Nat.digitChar d).toUpper) ∧
    ((t = us ∧ (∀ d ∈ ds, d < 10) ∧ n = positional 10 ds) ∨
      (t = '0' :: 'x' :: us ∧ (∀ d ∈ ds, d < 16) ∧ n = positional 16 ds) ∨
      (t = '0' :: 'b' :: us ∧ (∀ d ∈ ds, d < 2) ∧ n = positional 2 ds))

/-! ## The checksum -/

/-- R50: `crc8` is R50's loop on numbers: 0xFF, XOR the first byte, eight shifts, XOR the second byte, eight shifts. -/
def Obligations.CrcIsTheShiftLoop : Prop :=
  (∀ c b : Byte, (crc8Byte c b).toNat = eightShifts (c.toNat ^^^ b.toNat)) ∧
  (∀ b0 b1 : Byte, (crc8 b0 b1).toNat = eightShifts (eightShifts (0xFF ^^^ b0.toNat) ^^^ b1.toNat)) ∧
  (∀ v : Word, (crc8Word v).toNat = eightShifts (eightShifts (0xFF ^^^ v.toNat / 256) ^^^ v.toNat % 256))

/-- R51, R52: the checksum of a word is the remainder of `(v XOR 0xFF00) * x^8` by `G(x) = x^8 + x^5 + x^4 + 1` over
GF(2), whose 9-bit form is 0x131. -/
def Obligations.CrcIsThePolynomialRemainder : Prop :=
  spells 0x131#9 (Polynomial.X ^ 8 + Polynomial.X ^ 5 + Polynomial.X ^ 4 + 1) ∧
  ∀ v : Word, ∃ p : Polynomial (ZMod 2), spells (v ^^^ 0xFF00#16) p ∧
    spells (crc8Word v)
      ((p * Polynomial.X ^ 8) %ₘ (Polynomial.X ^ 8 + Polynomial.X ^ 5 + Polynomial.X ^ 4 + 1))

/-- R53: the affine law, and the checksum as an XOR of the written-out columns. -/
def Obligations.CrcIsAffine : Prop :=
  (∀ v w : Word, crc8Word (v ^^^ w) = crc8Word v ^^^ crc8Word w ^^^ crc8Word 0x0000#16) ∧
  crc8Word 0x0000#16 = 0x81#8 ∧
  (∀ (k : Nat) (c : Byte), crcColumns[k]? = some c → crc8Word (1#16 <<< k) ^^^ 0x81#8 = c) ∧
  (∀ v : Word, crc8Word v =
    (List.range 16).foldl (fun c k => if v.getLsbD k then c ^^^ crcColumns.getD k 0x00#8 else c) 0x81#8)

/-- R54: the loop, the written-out table and the closed form give the same checksum for every input. -/
def Obligations.LoopTableAndClosedFormAgree : Prop :=
  (∀ i : Byte, crcEntry i = crc8Byte 0x00#8 i) ∧
  (∀ b0 b1 : Byte, crc8Table b0 b1 = crc8 b0 b1) ∧
  (∀ v : Word, crc8Closed v = crc8Word v) ∧
  (∀ b0 b1 : Byte, crc8 b0 b1 = crcEntry (crcEntry (0xFF#8 ^^^ b0) ^^^ b1))

/-- R56: the two check values. -/
def Obligations.PublishedCheckValues : Prop :=
  crc8 0xBE#8 0xEF#8 = 0x92#8 ∧
  crcOfBytes [0x31#8, 0x32#8, 0x33#8, 0x34#8, 0x35#8, 0x36#8, 0x37#8, 0x38#8, 0x39#8] = 0xF7#8

/-- R57 on the data bytes: which error patterns always change the checksum, and one of weight four that never does. -/
def Obligations.DataErrorsAreDetected : Prop :=
  (∀ e : Word, e ≠ 0x0000#16 →
    (weight e = 1 ∨ weight e = 2 ∨ weight e = 3 ∨ weight e % 2 = 1 ∨ withinEight e) →
    ∀ v : Word, crc8Word (v ^^^ e) ≠ crc8Word v) ∧
  weight 0x0131#16 = 4 ∧
  ∀ v : Word, crc8Word (v ^^^ 0x0131#16) = crc8Word v

/-- R57 on a whole record: no pattern of fewer than four bits goes undetected, and 80 patterns of four bits do. -/
def Obligations.EightyFourBitRecordErrorsGoUndetected : Prop :=
  (∀ e : BitVec 24, e ≠ 0 → weight e < 4 → ∀ v : Word, decode24 (record24 v ^^^ e) = .error .checksumMismatch) ∧
  Nat.card { e : BitVec 24 // weight e = 4 ∧ ∀ v : Word, decode24 (record24 v ^^^ e) ≠ .error .checksumMismatch } = 80

/-- R58: each checksum value is the checksum of exactly 256 words. -/
def Obligations.EachChecksumHasExactly256Words : Prop :=
  ∀ c : Byte, Nat.card { v : Word // crc8Word v = c } = 256

/-! ## Codec laws -/

/-- R68: decoding what ENC_WORD drove for a word gives the word, for every word, in any two states. -/
def Obligations.DecodingAnEncodedWordGivesItBack : Prop :=
  ∀ (v : Word) (s r : State), ∃ t u, exec (.encWord v) s = .next t ∧
    exec (.decWord t.out.dout0 t.out.dout1 t.out.dout2) r = .next u ∧ Reading.verdict ⟨0b11#2, u.out⟩ = some (.ok v)

/-- R69: a record that decodes to a word is the record ENC_WORD drives for that word. -/
def Obligations.EncodingADecodedRecordGivesItBack : Prop :=
  ∀ (r0 r1 r2 : Byte) (v : Word) (s r : State), decodeRecord r0 r1 r2 = .ok v →
    ∃ t u, exec (.decWord r0 r1 r2) s = .next t ∧ Reading.verdict ⟨0b11#2, t.out⟩ = some (.ok v) ∧
      exec (.encWord v) r = .next u ∧ u.out.dout0 = r0 ∧ u.out.dout1 = r1 ∧ u.out.dout2 = r2

/-- R64: ENC_WORD is injective, and exactly 65,536 of the 2^24 three-byte strings are records it can drive. -/
def Obligations.ValidRecordsAreOnePerWord : Prop :=
  (∀ v w : Word, encodeRecord v = encodeRecord w → v = w) ∧
  (∀ (v : Word) (s : State), ∃ t, exec (.encWord v) s = .next t ∧
    (t.out.dout0, t.out.dout1, t.out.dout2) = encodeRecord v) ∧
  Nat.card { r : Byte × Byte × Byte // ∃ v, encodeRecord v = r } = 65536 ∧
  Nat.card (Byte × Byte × Byte) = 2 ^ 24

/-- R66: DEC_WORD accepts exactly the valid records, one third byte per pair, and rejects the 16,711,680 others, keeping
nothing of them. -/
def Obligations.OnlyValidRecordsAreAccepted : Prop :=
  (∀ r0 r1 r2 : Byte, (∃ v, decodeRecord r0 r1 r2 = .ok v) ↔ ∃ v, encodeRecord v = (r0, r1, r2)) ∧
  (∀ r0 r1 : Byte, ∃! r2 : Byte, ∃ v, decodeRecord r0 r1 r2 = .ok v) ∧
  Nat.card { r : Byte × Byte × Byte // decodeRecord r.1 r.2.1 r.2.2 = .error .checksumMismatch } = 16711680 ∧
  (∀ (r0 r1 r2 : Byte) (s : State), decodeRecord r0 r1 r2 = .error .checksumMismatch →
    ∃ t, exec (.decWord r0 r1 r2) s = .next t ∧ Reading.verdict ⟨0b11#2, t.out⟩ = some (.error .checksumMismatch) ∧
      t.out.vout = 0x0000#16 ∧ t.out.wireBytes = [])

/-- R70: every corruption of one, two or three bits, or of odd weight, of a valid record is rejected; some corruption of
four bits is accepted. -/
def Obligations.LightCorruptionsOfARecordAreRejected : Prop :=
  (∀ (v : Word) (k : Nat), k < 24 → decode24 (record24 v ^^^ (1#24 <<< k)) = .error .checksumMismatch) ∧
  (∀ (v : Word) (e : BitVec 24), (weight e = 1 ∨ weight e = 2 ∨ weight e = 3 ∨ weight e % 2 = 1) →
    decode24 (record24 v ^^^ e) = .error .checksumMismatch) ∧
  (∃ (v w : Word) (e : BitVec 24), weight e = 4 ∧ decode24 (record24 v ^^^ e) = .ok w ∧ w ≠ v) ∧
  (∀ v : Word, decode24 (record24 v) = .ok v)
end

