-- ==== Sys2Proof/Laws/Encoding.lean ====
section
/-! SUPPORT. The fields of a concatenated operation word, and the bytes of a word. -/

namespace Sys2Proof

variable (op : BitVec 2) (a b c : Byte) (v : Word)

/-- One bit of a concatenated operation word, field by field (R37). -/
theorem opWordOf_bit (i : Nat) : (opWordOf op a b c v).getLsbD i =
    if i < 16 then v.getLsbD i
    else if i < 24 then c.getLsbD (i - 16)
    else if i < 32 then b.getLsbD (i - 24)
    else if i < 40 then a.getLsbD (i - 32)
    else op.getLsbD (i - 40) := by
  simp only [opWordOf, BitVec.getLsbD_cast, BitVec.getLsbD_append]
  split_ifs <;> first | rfl | omega

@[simp] theorem opField_opWordOf : opField (opWordOf op a b c v) = op := by
  ext i hi
  rw [opField, BitVec.getElem_extractLsb', opWordOf_bit]
  simp only [show ¬ 40 + i < 16 by omega, show ¬ 40 + i < 24 by omega, show ¬ 40 + i < 32 by omega,
    show ¬ 40 + i < 40 by omega, if_false, show 40 + i - 40 = i by omega, BitVec.getLsbD_eq_getElem hi]

@[simp] theorem din0Field_opWordOf : din0Field (opWordOf op a b c v) = a := by
  ext i hi
  rw [din0Field, BitVec.getElem_extractLsb', opWordOf_bit]
  simp only [show ¬ 32 + i < 16 by omega, show ¬ 32 + i < 24 by omega, show ¬ 32 + i < 32 by omega,
    show 32 + i < 40 by omega, if_false, if_true, show 32 + i - 32 = i by omega, BitVec.getLsbD_eq_getElem hi]

@[simp] theorem din1Field_opWordOf : din1Field (opWordOf op a b c v) = b := by
  ext i hi
  rw [din1Field, BitVec.getElem_extractLsb', opWordOf_bit]
  simp only [show ¬ 24 + i < 16 by omega, show ¬ 24 + i < 24 by omega, show 24 + i < 32 by omega,
    if_false, if_true, show 24 + i - 24 = i by omega, BitVec.getLsbD_eq_getElem hi]

@[simp] theorem din2Field_opWordOf : din2Field (opWordOf op a b c v) = c := by
  ext i hi
  rw [din2Field, BitVec.getElem_extractLsb', opWordOf_bit]
  simp only [show ¬ 16 + i < 16 by omega, show 16 + i < 24 by omega,
    if_false, if_true, show 16 + i - 16 = i by omega, BitVec.getLsbD_eq_getElem hi]

@[simp] theorem vinField_opWordOf : vinField (opWordOf op a b c v) = v := by
  ext i hi
  rw [vinField, BitVec.getElem_extractLsb', opWordOf_bit]
  simp only [show 0 + i = i by omega, hi, if_true, BitVec.getLsbD_eq_getElem hi]

namespace Machine

variable (r0 r1 : Byte)

theorem joinBytes_eq : joinBytes r0 r1 = r0 ++ r1 := rfl

/-- One bit of an assembled word (R26). -/
theorem joinBytes_bit (i : Nat) :
    (joinBytes r0 r1).getLsbD i = if i < 8 then r1.getLsbD i else r0.getLsbD (i - 8) := by
  simp only [joinBytes, BitVec.getLsbD_cast, BitVec.getLsbD_append]

@[simp] theorem hiByte_joinBytes : hiByte (joinBytes r0 r1) = r0 := by
  ext i hi
  rw [hiByte, BitVec.getElem_extractLsb', joinBytes_bit, if_neg (by omega), show 8 + i - 8 = i by omega,
    BitVec.getLsbD_eq_getElem hi]

@[simp] theorem loByte_joinBytes : loByte (joinBytes r0 r1) = r1 := by
  ext i hi
  rw [loByte, BitVec.getElem_extractLsb', joinBytes_bit, if_pos (by omega), show 0 + i = i by omega,
    BitVec.getLsbD_eq_getElem hi]

@[simp] theorem joinBytes_split : joinBytes (hiByte v) (loByte v) = v := by
  ext i hi
  rw [← BitVec.getLsbD_eq_getElem hi, joinBytes_bit, ← BitVec.getLsbD_eq_getElem hi]
  split_ifs with h
  · simp [loByte, h]
  · simp [hiByte, show i - 8 < 8 by omega, show 8 + (i - 8) = i by omega]

theorem hiByte_xor (w : Word) : hiByte (v ^^^ w) = hiByte v ^^^ hiByte w := by
  ext i hi
  simp [hiByte]

theorem loByte_xor (w : Word) : loByte (v ^^^ w) = loByte v ^^^ loByte w := by
  ext i hi
  simp [loByte]

end Machine

end Sys2Proof
end

