-- ==== Sys2Proof/Laws/Crc.lean ====
section
/-! SUPPORT. The register of the Checksum Unit is linear over XOR, pass by pass and byte by byte. -/

namespace Sys2Proof.Machine

theorem crcShift_xor (a b : Byte) : crcShift (a ^^^ b) = crcShift a ^^^ crcShift b := by
  unfold crcShift
  rw [BitVec.msb_xor, BitVec.shiftLeft_xor_distrib]
  cases a.msb <;> cases b.msb <;> simp
  · ac_rfl
  · ac_rfl
  · rw [show a <<< 1 ^^^ crcGenerator ^^^ (b <<< 1 ^^^ crcGenerator) =
      a <<< 1 ^^^ b <<< 1 ^^^ (crcGenerator ^^^ crcGenerator) by ac_rfl, BitVec.xor_self, BitVec.xor_zero]

theorem crcShifts_xor (n : Nat) (a b : Byte) : crcShifts n (a ^^^ b) = crcShifts n a ^^^ crcShifts n b := by
  induction n generalizing a b with
  | zero => rfl
  | succ n ih => simp only [crcShifts, crcShift_xor, ih]

/-- A byte enters the register by XOR, so its effect adds to the register's own. -/
theorem crc8Byte_eq (c b : Byte) : crc8Byte c b = crcShifts 8 c ^^^ crcShifts 8 b := crcShifts_xor 8 c b

/-- The checksum as three parts: the initial value, the first byte, the second byte. -/
theorem crc8_eq (b0 b1 : Byte) :
    crc8 b0 b1 = crcShifts 8 (crcShifts 8 crcInit) ^^^ crcShifts 8 (crcShifts 8 b0) ^^^ crcShifts 8 b1 := by
  simp only [crc8, crc8Byte_eq, crcShifts_xor]

end Sys2Proof.Machine
end

