-- ==== Sys2Proof/Laws/Frames.lean ====
section
/-! SUPPORT. One lemma per recursive operation of the host's side: what it answers on one more record, reading, operation,
action or instance. -/

namespace Sys2Proof.Machine

/-- Three more bytes are one more record. -/
theorem partitionRecords_cons (a b c : Byte) (rest : List Byte) :
    partitionRecords (a :: b :: c :: rest) = (partitionRecords rest).map ((a, b, c) :: ·) := by
  simp only [partitionRecords]
  cases partitionRecords rest <;> rfl

theorem frameVerdicts_cons {r : Reading} {v : Except ChecksumMismatch Word} (rs : List Reading)
    (h : r.verdict = some v) : frameVerdicts (r :: rs) = (frameVerdicts rs).map (v :: ·) := by
  simp only [frameVerdicts, h]
  cases frameVerdicts rs <;> rfl

theorem frameVerdicts_cons_none {r : Reading} (rs : List Reading) (h : r.verdict = none) :
    frameVerdicts (r :: rs) = none := by simp only [frameVerdicts, h]

theorem allOrNothing_cons_ok (v : Word) (vs : List (Except ChecksumMismatch Word)) :
    allOrNothing (.ok v :: vs) = (allOrNothing vs).map (v :: ·) := by
  simp only [allOrNothing]
  cases allOrNothing vs <;> rfl

theorem allOrNothing_cons_error (e : ChecksumMismatch) (vs : List (Except ChecksumMismatch Word)) :
    allOrNothing (.error e :: vs) = .error e := rfl

theorem hostOps_cons {i : Instr} {s s' s'' : State} {r : Reading} {is : List Instr} {rs : List Reading}
    (h : hostOp i s = .next (s', r)) (hs : hostOps is s' = .next (s'', rs)) :
    hostOps (i :: is) s = .next (s'', r :: rs) := by simp only [hostOps, h, hs]

theorem hostRun_cons {a : HostAction} {s s' : State} (as : List HostAction) (h : hostAct a s = .next s') :
    hostRun (a :: as) s = hostRun as s' := by simp only [hostRun, h]

theorem bankAct_of_hostAct {bank : List State} {k : Nat} {a : HostAction} {s s' : State} (hk : bank[k]? = some s)
    (h : hostAct a s = .next s') : bankAct k a bank = .next (bank.set k s') := by simp only [bankAct, hk, h]

end Sys2Proof.Machine
end

