-- ==== Sys2Proof/Laws/State.lean ====
section
/-! SUPPORT. One lemma per field and update of State, and one lemma per host action at the pins. -/

namespace Sys2Proof.Machine

variable (s : State) (o : Outputs) (x : Inputs)

@[simp] theorem present_inp : (s.present o).inp = s.inp := rfl
@[simp] theorem present_out : (s.present o).out = o := rfl
@[simp] theorem present_settled : (s.present o).settled = true := rfl
@[simp] theorem present_draws : (s.present o).draws = s.draws := rfl

/-- A second evaluation replaces what the first drove. -/
@[simp] theorem present_present (o' : Outputs) : (s.present o).present o' = s.present o' := rfl

@[simp] theorem release_inp : s.release.inp = none := rfl
@[simp] theorem release_out : s.release.out = s.out := rfl
@[simp] theorem release_settled : s.release.settled = false := rfl
@[simp] theorem release_draws : s.release.draws = s.draws := rfl

@[simp] theorem systemReset_eq : s.systemReset = s := rfl

@[simp] theorem powerCycle_inp : s.powerCycle.inp = none := rfl
@[simp] theorem powerCycle_settled : s.powerCycle.settled = false := rfl
@[simp] theorem powerCycle_draws : s.powerCycle.draws = s.draws := rfl

/-- Whatever was driven before, `drive x` leaves `x` on the inputs. -/
@[simp] theorem drive_inp : (s.drive x).inp = some x := by
  unfold State.drive
  split
  · assumption
  · rfl

@[simp] theorem drive_out : (s.drive x).out = s.out := by
  unfold State.drive; split <;> rfl

@[simp] theorem drive_draws : (s.drive x).draws = s.draws := by
  unfold State.drive; split <;> rfl

/-- Driving the levels already there changes nothing. -/
theorem drive_same (h : s.inp = some x) : s.drive x = s := by simp [State.drive, h]

/-- Driving other levels unsettles the outputs (R91). -/
theorem drive_other (h : s.inp ≠ some x) : s.drive x = { s with inp := some x, settled := false } := by
  simp [State.drive, h]

/-- A driven state that is still settled was not changed at all. -/
theorem drive_settled (h : (s.drive x).settled = true) : s.inp = some x ∧ s.settled = true := by
  unfold State.drive at h
  split at h
  · exact ⟨by assumption, h⟩
  · simp at h

theorem sample_settled (h : s.settled = true) : s.sample = (s.out, s) := by simp [State.sample, h]

theorem sample_unsettled (h : s.settled = false) :
    s.sample = (freeOutputs s.draws, { s with draws := s.draws + 1 }) := by simp [State.sample, h]

@[simp] theorem sample_inp : s.sample.2.inp = s.inp := by unfold State.sample; split <;> rfl
@[simp] theorem sample_out : s.sample.2.out = s.out := by unfold State.sample; split <;> rfl
@[simp] theorem sample_settled_field : s.sample.2.settled = s.settled := by unfold State.sample; split <;> rfl

@[simp] theorem fetch_some (h : s.inp = some x) : s.fetch = some x.opword := by simp [State.fetch, h]
@[simp] theorem fetch_none (h : s.inp = none) : s.fetch = none := by simp [State.fetch, h]

/-- What `withFetchWord` leaves on the inputs: exactly the levels of the word. -/
@[simp] theorem withFetchWord_inp (nbits w : Nat) :
    (s.withFetchWord nbits w).inp = some (Inputs.ofOpword (BitVec.ofNat 42 (w % 2 ^ nbits))) := drive_inp _ _

/-- A hold shorter than `T_PROP` does nothing (R90). -/
theorem hold_short (t : Nat) (h : t < Config.tProp) : s.hold t = .next s := by
  simp [State.hold, Nat.not_le.mpr h]

/-- A hold of undefined inputs does nothing (R24). -/
theorem hold_undefined (t : Nat) (h : s.inp = none) : s.hold t = .next s := by simp [State.hold, h]

/-- A hold of defined inputs for at least `T_PROP` is one evaluation (R90). -/
theorem hold_long (t : Nat) (h : s.inp = some x) (ht : Config.tProp ≤ t) : s.hold t = step s := by
  simp [State.hold, h, ht]

end Sys2Proof.Machine
end

