-- ==== Sys2Proof/Laws/Meanings.lean ====
section
/-! SUPPORT. What each shared operation and each meaning answers, said once. -/

namespace Sys2Proof.Machine

variable (s : State)

theorem raiseMismatch_eq (c : Byte) :
    raiseMismatch c s = .next (s.present ⟨0x00#8, 0x00#8, 0x00#8, 0#2, c, 0x0000#16, 1#1⟩) := rfl

theorem mismatchFlag_eq_one (c r : Byte) : mismatchFlag c r = 1#1 ↔ c ≠ r := by
  unfold mismatchFlag
  split <;> simp_all

/-- The two outcomes of a record, with the condition that decides between them. -/
theorem decodeRecord_cases (r0 r1 r2 : Byte) :
    (crc8 r0 r1 = r2 ∧ decodeRecord r0 r1 r2 = .ok (joinBytes r0 r1)) ∨
    (crc8 r0 r1 ≠ r2 ∧ decodeRecord r0 r1 r2 = .error .checksumMismatch) := by
  unfold decodeRecord
  by_cases h : crc8 r0 r1 = r2
  · exact .inl ⟨h, if_neg (by simp [mismatchFlag_eq_one, h])⟩
  · exact .inr ⟨h, if_pos ((mismatchFlag_eq_one _ _).mpr h)⟩

/-- A step on defined inputs is the dispatch of the decoded operation word. -/
theorem step_of_inp {x : Inputs} (h : s.inp = some x) : step s = exec (decode x.opword) s := by
  simp [step, fetch_some s x h]

/-- What a step can do, guard included: only on defined inputs, and then what the decoded operation does. -/
theorem step_cases {t : State} (h : step s = .next t) :
    ∃ x, s.inp = some x ∧ exec (decode x.opword) s = .next t := by
  cases hx : s.inp with
  | none => simp [step, fetch_none s hx] at h
  | some x => exact ⟨x, rfl, by rw [← step_of_inp s hx, h]⟩

/-- What an operation can do: drive some outputs, and nothing else. -/
theorem exec_cases {i : Instr} {t : State} (h : exec i s = .next t) : ∃ o, t = s.present o := by
  cases i with
  | checksum b0 b1 => cases h; exact ⟨_, rfl⟩
  | encCmd v => cases h; exact ⟨_, rfl⟩
  | encWord v => cases h; exact ⟨_, rfl⟩
  | decWord r0 r1 r2 =>
    rcases decodeRecord_cases r0 r1 r2 with ⟨_, e⟩ | ⟨_, e⟩ <;> simp only [exec, execDecWord, e] at h <;>
      cases h <;> exact ⟨_, rfl⟩

theorem verdict_of_match (o : Outputs) (h : o.mismatch = 0#1) :
    Reading.verdict ⟨0b11#2, o⟩ = some (.ok o.vout) := by simp [Reading.verdict, h]

theorem verdict_of_mismatch (o : Outputs) (h : o.mismatch = 1#1) :
    Reading.verdict ⟨0b11#2, o⟩ = some (.error .checksumMismatch) := by simp [Reading.verdict, h]

/-- No other operation than DEC_WORD has a verdict, whatever its ports show (R18, R20). -/
theorem verdict_of_other (r : Reading) (h : r.op ≠ 0b11#2) : r.verdict = none := by simp [Reading.verdict, h]

end Sys2Proof.Machine
end

