-- ==== Sys2Proof/Laws/PerInstr.lean ====
section
/-! SUPPORT. Per-instruction family OpcodeRow: the word an instruction is assembled to selects its own row of the opcode
table (R38, R46). -/

namespace Sys2Proof.Laws.OpcodeRow

/-- Some row of R38's table carries the instruction's mnemonic and is selected by its word. -/
def Statement (i : Instr) : Prop := ∃ r ∈ opcodeTable, r.mnemonic = i.mnemonic ∧ r.selects (encode i) = true

/-- R38's mask keeps the `op` field alone. -/
theorem opWordOf_and_mask (op : BitVec 2) (a b c : Byte) (v : Word) :
    opWordOf op a b c v &&& 0x30000000000#42 = opWordOf op 0#8 0#8 0#8 0#16 := by
  have mask : (0x30000000000#42 : OpWord) = opWordOf 0b11#2 0#8 0#8 0#8 0#16 := by decide
  apply BitVec.eq_of_getLsbD_eq
  intro i hi
  rw [mask, BitVec.getLsbD_and, opWordOf_bit, opWordOf_bit, opWordOf_bit]
  split_ifs
  · simp
  · simp
  · simp
  · simp
  · have h : i - 40 = 0 ∨ i - 40 = 1 := by omega
    rcases h with h | h <;> simp [h]

theorem checksum (b0 b1 : Byte) : Statement (.checksum b0 b1) :=
  ⟨⟨.checksum, 0x30000000000#42, 0x00000000000#42⟩, by simp [opcodeTable], rfl,
    by simp only [OpRow.selects, encode, opWordOf_and_mask]; decide⟩

theorem encCmd (v : Word) : Statement (.encCmd v) :=
  ⟨⟨.encCmd, 0x30000000000#42, 0x10000000000#42⟩, by simp [opcodeTable], rfl,
    by simp only [OpRow.selects, encode, opWordOf_and_mask]; decide⟩

theorem encWord (v : Word) : Statement (.encWord v) :=
  ⟨⟨.encWord, 0x30000000000#42, 0x20000000000#42⟩, by simp [opcodeTable], rfl,
    by simp only [OpRow.selects, encode, opWordOf_and_mask]; decide⟩

theorem decWord (r0 r1 r2 : Byte) : Statement (.decWord r0 r1 r2) :=
  ⟨⟨.decWord, 0x30000000000#42, 0x30000000000#42⟩, by simp [opcodeTable], rfl,
    by simp only [OpRow.selects, encode, opWordOf_and_mask]; decide⟩

end Sys2Proof.Laws.OpcodeRow
end

