-- ==== Sys2Proof/Tests/Slice0.lean ====
section
/-! SUPPORT. Tests, each with an expected result written in the spec (95_test_vectors.md unless another rule is named),
and one witness for the hypotheses of each statement. -/

namespace Sys2Proof.Tests

open Sys2Proof.Machine Sys2Proof.Claims

/-! ## Decoding: words written out bit by bit from R37 and R38 -/

/-- op 00, din0 BE, din1 EF, then ignored fields 5A and FFFF (V3). -/
theorem test_decode_checksum :
    decode 0b00_10111110_11101111_01011010_1111111111111111#42 = .checksum 0xBE#8 0xEF#8 := by decide

/-- op 01, ignored lanes set, vin 21B1. -/
theorem test_decode_encCmd :
    decode 0b01_11111111_11111111_11111111_0010000110110001#42 = .encCmd 0x21B1#16 := by decide

/-- op 10, ignored lanes set, vin BEEF (V5). -/
theorem test_decode_encWord :
    decode 0b10_11111111_11111111_11111111_1011111011101111#42 = .encWord 0xBEEF#16 := by decide

/-- op 11, record BE EF 92, ignored vin FFFF (V6). -/
theorem test_decode_decWord :
    decode 0b11_10111110_11101111_10010010_1111111111111111#42 = .decWord 0xBE#8 0xEF#8 0x92#8 := by decide

/-- A number of more than 42 bits is no operation word (R37). -/
theorem test_decode_rejects_43_bits : decodeBits 0x40000000000 = .error .notAnOperationWord := by decide

/-- P5's word for `CHECKSUM 0x12, 0x34`. -/
theorem test_encode_checksum : encode (.checksum 0x12#8 0x34#8) = 0x01234000000#42 := by decide

/-- V6's word for the record 01 90 4C. -/
theorem test_encode_decWord : encode (.decWord 0x01#8 0x90#8 0x4C#8) = 0x301904C0000#42 := by decide

/-! ## The assembler's refusals: one ill-formed line for each check (R46, R48) -/

theorem test_refuse_unknown_mnemonic : AsmLine.check ⟨"CRC".toList, [1, 2]⟩ = .error .unknownMnemonic := by decide
theorem test_refuse_count : AsmLine.check ⟨"CHECKSUM".toList, [1]⟩ = .error .wrongOperandCount := by decide
theorem test_refuse_count_frame : AsmLine.check ⟨"ENC_FRAME".toList, []⟩ = .error .wrongOperandCount := by decide
theorem test_refuse_byte : AsmLine.check ⟨"DEC_WORD".toList, [1, 2, 256]⟩ = .error .byteOutOfRange := by decide
theorem test_refuse_value : AsmLine.check ⟨"ENC_WORD".toList, [65536]⟩ = .error .valueOutOfRange := by decide
theorem test_refuse_empty_frame : AsmLine.check ⟨"DEC_FRAME".toList, [0]⟩ = .error .emptyFrame := by decide
theorem test_refuse_frame_length :
    AsmLine.check ⟨"DEC_FRAME".toList, [1, 0, 1]⟩ = .error .frameLength := by decide
theorem test_refuse_numeral : readLine "ENC_CMD 0xG1".toList = .error .badNumeral := by decide

/-- Log entry 10: a bad numeral is refused before an unknown mnemonic. -/
theorem test_refuse_numeral_first : assembleText "FOO 0xG".toList = .error .badNumeral := by decide

theorem test_refuse_ill_formed : AsmLine.wellFormed ⟨"VERIFY".toList, [1, 2]⟩ = false := by decide
theorem test_refuse_pseudo : Pseudo.wellFormed (.decFrame 2 [0x00#8, 0x01#8, 0xB0#8]) = false := by decide
theorem test_accept_line : AsmLine.wellFormed ⟨"verify".toList, [1, 2, 3]⟩ = true := by decide

/-- Three lines of P1, with its comment and a line that shows outputs, in mixed case. -/
theorem test_assemble_text :
    assembleText "enc_cmd 0xE4B8 ; send\n  => dout=E4 B8 00\nDEC_WORD 0x00, 0x06, 0x27".toList =
      .ok [.op (.encCmd 0xE4B8#16), .op (.decWord 0x00#8 0x06#8 0x27#8)] := by decide

/-! ## Single steps -/

/-- A state whose inputs spell an instruction. -/
def driven (i : Instr) : State := State.reset.drive (Inputs.ofInstr i)

/-- The outputs of one step, when it answers a next state. -/
def outputs (s : State) : Option Outputs :=
  match step s with
  | .next t => some t.out
  | _ => none

/-- V3, the published check value. -/
theorem test_checksum_beef :
    outputs (driven (.checksum 0xBE#8 0xEF#8)) = some ⟨0, 0, 0, 0, 0x92, 0, 0⟩ := by decide +kernel

/-- V3: the order of the bytes matters. -/
theorem test_checksum_order :
    outputs (driven (.checksum 0x01#8 0x00#8)) = some ⟨0, 0, 0, 0, 0x75, 0, 0⟩ := by decide +kernel

/-- V4. -/
theorem test_encCmd_ff00 :
    outputs (driven (.encCmd 0xFF00#16)) = some ⟨0xFF, 0x00, 0, 2, 0, 0, 0⟩ := by decide +kernel

/-- V5: a checksum byte of zero is a correct value. -/
theorem test_encWord_03ff :
    outputs (driven (.encWord 0x03FF#16)) = some ⟨0x03, 0xFF, 0x00, 3, 0x00, 0, 0⟩ := by decide +kernel

/-- V5. -/
theorem test_encWord_1234 :
    outputs (driven (.encWord 0x1234#16)) = some ⟨0x12, 0x34, 0x37, 3, 0x37, 0, 0⟩ := by decide +kernel

/-- V6. -/
theorem test_decWord_accepts :
    outputs (driven (.decWord 0xFF#8 0x00#8 0x00#8)) = some ⟨0, 0, 0, 0, 0x00, 0xFF00, 0⟩ := by decide +kernel

/-- V7: one bit of the checksum byte flipped. -/
theorem test_decWord_rejects :
    outputs (driven (.decWord 0xBE#8 0xEF#8 0x12#8)) = some ⟨0, 0, 0, 0, 0x92, 0, 1⟩ := by decide +kernel

/-- R24, U9: undefined inputs are refused. -/
theorem test_step_refuses_undefined : step State.powerUp = .refused .undefinedInputs := by rfl

/-- The word of V3's last row, placed as the host places it, is the first instruction after reset. -/
theorem test_withFetchWord :
    outputs (State.reset.withFetchWord 48 0x0BEEF5AFFFF) = some ⟨0, 0, 0, 0, 0x92, 0, 0⟩ := by decide +kernel

/-- R59 and R56: the nine ASCII bytes' check value, one byte at a time. -/
theorem test_check_value :
    crcOfBytes [0x31, 0x32, 0x33, 0x34, 0x35, 0x36, 0x37, 0x38, 0x39] = 0xF7#8 := by decide +kernel

/-- V8: `crc8v(0xC000) = 0x2B`, by the closed form. -/
theorem test_closed_form : crc8Closed 0xC000#16 = 0x2B#8 := by decide +kernel

/-- R28: the nine bytes of P2 are three records; eight bytes are none (R32). -/
theorem test_partition :
    partitionRecords [0x01#8, 0x90#8, 0x4C#8, 0x80#8, 0x00#8, 0xA2#8] =
      some [(0x01#8, 0x90#8, 0x4C#8), (0x80#8, 0x00#8, 0xA2#8)] ∧
    partitionRecords [0x01#8, 0x90#8, 0x4C#8, 0x80#8] = none := by decide

/-- P3's end state: two good records and one bad one give the failure and no word. -/
theorem test_frame_all_or_nothing :
    frameWords ([.decWord 0x01#8 0x90#8 0x4C#8, .decWord 0x80#8 0x00#8 0xA2#8, .decWord 0x40#8 0x00#8 0x09#8].map reading)
      = some (.error .checksumMismatch) := by decide +kernel

/-- R18, R20: the zero on `vout` of CHECKSUM, ENC_CMD and ENC_WORD is no word, and no DEC_FRAME result comes of it. -/
theorem test_no_word_but_of_decWord :
    [Instr.checksum 0x00#8 0x00#8, .encCmd 0x0000#16, .encWord 0x0000#16].map (fun i => (reading i).verdict)
      = [none, none, none] ∧
    frameWords [reading (.decWord 0x00#8 0x00#8 0x81#8), reading (.encWord 0x0000#16)] = none := by decide +kernel

/-! ## Witnesses: for each statement with hypotheses, values that meet them -/

/-- Defined inputs of any operation. -/
def atOp (op : BitVec 2) : Inputs := ⟨op, 0xBE#8, 0xEF#8, 0x92#8, 0x1234#16⟩

/-- A settled, consistent state after a DEC_WORD of the valid record BE EF 92. -/
def settledDec : State := ⟨some (atOp 0b11#2), portTable (atOp 0b11#2), true, 0⟩

theorem settledDec_consistent : settledDec.consistent := by
  intro _
  exact ⟨atOp 0b11#2, rfl, by simp only [settledDec]⟩

theorem witness_EveryWordSelectsExactlyOneRow :
    ∃ r ∈ opcodeTable, r.selects 0x100000021B1#42 = true := ⟨opcodeTable[1], by decide, by decide⟩

theorem witness_EveryWordSelectsExactlyOneRow_ops :
    opField 0#42 = 0b00#2 ∧ opField 0x10000000000#42 = 0b01#2 ∧ opField 0x20000000000#42 = 0b10#2 ∧
    opField 0x3FFFFFFFFFF#42 = 0b11#2 := by decide

theorem witness_DecodeAndEncodeAgree : 42 ≤ 42 ∧ 42 ≤ 48 := by decide

theorem witness_OperandsAreTheFieldsUnchanged :
    opField 0x0BEEF000000#42 = 0b00#2 ∧ opField 0x1000000FFFF#42 = 0b01#2 ∧ opField 0x2000000FFFF#42 = 0b10#2 ∧
    opField 0x3BEEF920000#42 = 0b11#2 ∧ decodeRecord 0xBE#8 0xEF#8 0x92#8 = .ok 0xBEEF#16 := by decide +kernel

/-- Inputs that differ in the ignored fields only, for each operation. -/
theorem witness_IgnoredFieldsNeverMatter :
    (atOp 0b00#2 ≠ ⟨0b00#2, 0xBE#8, 0xEF#8, 0x00#8, 0x0000#16⟩) ∧ (atOp 0b01#2 ≠ ⟨0b01#2, 0x00#8, 0x00#8, 0x00#8, 0x1234#16⟩) ∧
    (atOp 0b10#2 ≠ ⟨0b10#2, 0x00#8, 0x00#8, 0x00#8, 0x1234#16⟩) ∧
    (atOp 0b11#2 ≠ ⟨0b11#2, 0xBE#8, 0xEF#8, 0x92#8, 0x0000#16⟩) := by decide

theorem witness_ChecksumDrivesTheCrcOfItsTwoBytes :
    (State.reset.drive (atOp 0b00#2)).inp = some (atOp 0b00#2) ∧ (atOp 0b00#2).op = 0b00#2 := by decide

theorem witness_EncCmdDrivesTheTwoBytesOfTheCode :
    (State.reset.drive (atOp 0b01#2)).inp = some (atOp 0b01#2) ∧ (atOp 0b01#2).op = 0b01#2 := by decide

theorem witness_EncWordDrivesTheWireRecord :
    (State.reset.drive (atOp 0b10#2)).inp = some (atOp 0b10#2) ∧ (atOp 0b10#2).op = 0b10#2 := by decide

theorem witness_DecWordAcceptsOrReportsTheRecord :
    crc8 0xBE#8 0xEF#8 ≠ 0x93#8 ∧ crc8 0xBE#8 0xEF#8 = 0x92#8 ∧
    (State.reset.drive (atOp 0b11#2)).inp = some (atOp 0b11#2) ∧ (atOp 0b11#2).op = 0b11#2 := by decide +kernel

/-- Also the witness of every statement whose hypothesis is `s.inp = some x`. -/
theorem witness_StepRunsTheDecodedOperation :
    State.reset.inp = some ⟨0b00#2, 0x00#8, 0x00#8, 0x00#8, 0x0000#16⟩ ∧ 42 ≤ 42 := by decide

theorem witness_StepIsTheOutputTable : settledDec.inp = some (atOp 0b11#2) := by decide

theorem witness_StepsAndHostActionsKeepOutputsConsistent :
    State.powerUp.consistent ∧ (State.powerUp.drive (atOp 0b01#2)).consistent ∧
    (∃ t, step (State.powerUp.drive (atOp 0b01#2)) = .next t) ∧ (∃ t, hostAct .release State.powerUp = .next t) ∧
    (∃ t, hostRun [.sample, .release, .powerCycle] State.powerUp = .next t) :=
  ⟨fun h => absurd h (by decide), fun h => absurd h (by decide), ⟨_, rfl⟩, ⟨_, rfl⟩, ⟨_, rfl⟩⟩

theorem witness_NoEvaluationDependsOnAnEarlierOne : Config.tProp ≤ Config.tProp := le_refl _

theorem witness_EvaluationsAreRepeatableInAnyOrder : ∃ t, step State.reset = .next t := ⟨_, rfl⟩

theorem witness_ChecksumDependsOnItsTwoBytesOnly :
    let y : Inputs := ⟨0b00#2, 0xBE#8, 0xEF#8, 0x00#8, 0x0000#16⟩
    (State.reset.drive (atOp 0b00#2)).inp = some (atOp 0b00#2) ∧ (State.powerUp.drive y).inp = some y ∧
    (atOp 0b00#2).op = 0b00#2 ∧ y.op = 0b00#2 ∧ (atOp 0b00#2).din0 = y.din0 ∧ (atOp 0b00#2).din1 = y.din1 := by decide

theorem witness_InstancesAreIndependent : [State.reset, State.powerUp][1]? = some State.powerUp := rfl

theorem witness_NothingStopsTheBlockButUndefinedInputs : State.reset.ready ∧ ¬ State.powerUp.ready := by
  unfold State.ready
  decide

theorem witness_HoldingForTPropSettlesTheOutputs :
    State.reset.inp = some ⟨0b00#2, 0x00#8, 0x00#8, 0x00#8, 0x0000#16⟩ ∧ Config.tProp ≤ Config.tProp ∧
    0 < Config.tProp ∧ State.powerUp.settled = false := ⟨rfl, le_refl _, Nat.succ_pos _, rfl⟩

theorem witness_UndefinedOrChangedInputsGiveAnyOutput :
    State.powerUp.inp = none ∧ State.reset.inp ≠ some (atOp 0b01#2) ∧ settledDec.inp = some (atOp 0b11#2) ∧
    0b00#2 ≠ (atOp 0b11#2).op ∧ Config.tProp ≤ Config.tProp :=
  ⟨rfl, by decide, rfl, by decide, le_refl _⟩

theorem witness_SystemResetChangesNothing :
    settledDec.consistent ∧ settledDec.settled = true ∧ settledDec.inp = some (atOp 0b11#2) :=
  ⟨settledDec_consistent, rfl, rfl⟩

theorem witness_PowerUpMeansNothingUntilInputsSettle :
    State.reset.draws = settledDec.draws ∧ Config.tProp ≤ Config.tProp := ⟨rfl, le_refl _⟩

theorem witness_MismatchIsALevelOfTheCurrentInputs : settledDec.inp = some (atOp 0b11#2) := rfl

theorem witness_MismatchReportShowsTheRecomputedChecksum :
    let x : Inputs := ⟨0b11#2, 0xBE#8, 0xEF#8, 0x93#8, 0x0000#16⟩
    (State.reset.drive x).inp = some x ∧ x.op = 0b11#2 ∧ x.din2 ≠ crc8 x.din0 x.din1 := by decide +kernel

theorem witness_NextEvaluationAfterMismatchStartsClean : crc8 0x00#8 0x00#8 ≠ 0x00#8 := by decide +kernel

theorem witness_OneSampleGivesTheWordAndItsVerdict :
    settledDec.consistent ∧ settledDec.settled = true ∧ settledDec.inp = some (atOp 0b11#2) ∧
    (atOp 0b11#2).op = 0b11#2 ∧ Reading.verdict ⟨0b11#2, settledDec.sample.1⟩ = some (.ok 0xBEEF#16) :=
  ⟨settledDec_consistent, rfl, rfl, rfl, by decide +kernel⟩

/-- For its clause about the other operations. -/
theorem witness_OneSampleGivesTheWordAndItsVerdict_others :
    let s : State := ⟨some (atOp 0b00#2), portTable (atOp 0b00#2), true, 0⟩
    s.consistent ∧ s.settled = true ∧ s.inp = some (atOp 0b00#2) ∧ (atOp 0b00#2).op ≠ 0b11#2 :=
  ⟨fun _ => ⟨atOp 0b00#2, rfl, rfl⟩, rfl, rfl, by decide⟩

theorem witness_LanesAreWirePositions :
    (State.reset.drive (atOp 0b10#2)).inp = some (atOp 0b10#2) ∧
    (portTable (atOp 0b10#2)).wireBytes[2]? = some 0x37#8 ∧ (portTable (atOp 0b01#2)).wireBytes[1]? = some 0x34#8 := by
  decide +kernel

theorem witness_RecordsSitAtMultiplesOfThree :
    partitionRecords [0x00#8, 0x01#8, 0xB0#8] = some [(0x00#8, 0x01#8, 0xB0#8)] ∧
    [(0x00#8, 0x01#8, 0xB0#8)][0]? = some (0x00#8, 0x01#8, 0xB0#8) ∧
    partitionRecords [0x00#8, 0x01#8] = none := by decide

/-- A response of two good records, and one whose second record is bad. -/
theorem witness_OneBadRecordFailsTheWholeResponse :
    1 ≤ 2 ∧ [0x00#8, 0x01#8, 0xB0#8, 0x40#8, 0x00#8, 0x08#8].length = 3 * 2 ∧
    (∀ r ∈ [(0x00#8, 0x01#8, 0xB0#8), (0x40#8, 0x00#8, 0x08#8)], r.2.2 = crc8 r.1 r.2.1) ∧
    (∃ r ∈ [(0x00#8, 0x01#8, 0xB0#8), (0x40#8, 0x00#8, 0x09#8)], r.2.2 ≠ crc8 r.1 r.2.1) := by
  refine ⟨by decide, by decide, ?_, ⟨(0x40#8, 0x00#8, 0x09#8), by simp, by decide +kernel⟩⟩
  rw [List.forall_mem_cons, List.forall_mem_singleton]
  exact ⟨by decide +kernel, by decide +kernel⟩

/-- The same lengths and records meet the hypotheses of the update statement. -/
theorem witness_FailedResponseUpdatesNothing :
    1 ≤ 1 ∧ [0x00#8, 0x01#8, 0xB1#8].length = 3 * 1 ∧
    (∃ r ∈ [(0x00#8, 0x01#8, 0xB1#8)], r.2.2 ≠ crc8 r.1 r.2.1) ∧
    (∀ r ∈ [(0x00#8, 0x01#8, 0xB0#8)], r.2.2 = crc8 r.1 r.2.1) := by
  refine ⟨by decide, by decide, ⟨_, List.mem_singleton_self _, by decide +kernel⟩, ?_⟩
  rw [List.forall_mem_singleton]
  decide +kernel

theorem witness_FramesExpandCombineAndRoundTrip :
    1 ≤ 1 ∧ [0x00#8, 0x01#8, 0xB0#8].length = 3 * 1 ∧ [0x00#8, 0x01#8].length ≠ 3 * 1 ∧
    [0x0000#16, 0xFFFF#16] ≠ [] := by decide

/-- Readings for each clause about the result: all good, one bad, one of another operation. -/
theorem witness_FramesExpandCombineAndRoundTrip_results :
    frameWords [reading (.decWord 0x00#8 0x01#8 0xB0#8)] = some (.ok [0x0001#16]) ∧
    frameWords [reading (.decWord 0x00#8 0x01#8 0xB1#8)] = some (.error .checksumMismatch) ∧
    frameWords [reading (.encCmd 0x0001#16)] = none := by decide +kernel

theorem witness_AssemblerReadsItsLines :
    Pseudo.wellFormed (.decFrame 1 [0x00#8, 0x01#8, 0xB0#8]) = true ∧
    "checksum".toList.map Char.toUpper = "CHECKSUM".toList.map Char.toUpper ∧
    assemble ⟨"enc_cmd".toList, [1]⟩ = .ok (.op (.encCmd 1#16)) ∧
    assemble ⟨"DEC_FRAME".toList, [1, 0, 1, 0xB0]⟩ = .ok (.pseudo (.decFrame 1 [0x00#8, 0x01#8, 0xB0#8])) ∧
    '\n' ∉ "ENC_CMD 1".toList := by decide

/-- A line `DEC_WORD 0xF0, 1, 0b1` and one with an operand that is no numeral meet the hypotheses of the reading clause. -/
theorem witness_AssemblerReadsItsLines_text :
    (∀ c ∈ "DEC_WORD".toList, c.isAlphanum = true ∨ c = '_') ∧ (∀ c ∈ [' '] ++ [' ', '\t'], isBlank c = true) ∧
    (∀ t ∈ ["0xF0".toList, "1".toList, "0b1".toList], t ≠ [] ∧ ∀ c ∈ t, c.isAlphanum = true) ∧
    ["0xF0".toList, "1".toList, "0b1".toList].map numeral = [0xF0, 1, 1].map some ∧
    (∃ t ∈ ["1".toList, "0xG".toList], numeral t = none) :=
  ⟨by simp, List.all_eq_true.mp (by decide), by simp, by decide, by decide⟩

theorem witness_CrcIsAffine : crcColumns[15]? = some 0x23#8 ∧ crcColumns[0]? = some 0x31#8 := by decide

/-- One pattern for each clause of the data-error statement. -/
theorem witness_DataErrorsAreDetected :
    weight 0x8000#16 = 1 ∧ weight 0x8001#16 = 2 ∧ weight 0x8101#16 = 3 ∧ weight 0x1F#16 % 2 = 1 ∧
    withinEight 0xFF00#16 ∧ 0xFF00#16 ≠ 0x0000#16 := by
  refine ⟨by decide, by decide, by decide, by decide, ⟨8, fun i h => ?_⟩, by decide⟩
  have hi : i < 16 := by
    by_contra hc
    rw [BitVec.getLsbD_of_ge _ _ (by omega)] at h
    exact absurd h (by decide)
  revert h
  interval_cases i <;> decide

theorem witness_EightyFourBitRecordErrorsGoUndetected :
    (0x800001#24 ≠ 0) ∧ weight 0x800001#24 < 4 ∧ weight 0x013100#24 = 4 := by decide

theorem witness_EncodingADecodedRecordGivesItBack : decodeRecord 0x00#8 0x00#8 0x81#8 = .ok 0x0000#16 := by
  decide +kernel

theorem witness_OnlyValidRecordsAreAccepted : decodeRecord 0xFF#8 0xFF#8 0xFF#8 = .error .checksumMismatch := by
  decide +kernel

theorem witness_LightCorruptionsOfARecordAreRejected :
    23 < 24 ∧ weight 0x800000#24 = 1 ∧ weight 0x800001#24 = 2 ∧ weight 0x808001#24 = 3 ∧ weight 0x1F#24 % 2 = 1 := by
  decide

end Sys2Proof.Tests
end

namespace Sys2Proof.Machine

/-! ## Scope: every operation completes, and only undefined inputs stop a step

One fact carries both statements: an operation drives outputs that its operands alone decide. -/

/-- The outputs come before the state: no state makes an operation stop, or drive anything else (R2, R7, R34). -/
theorem exec_eq_next_present (i : Instr) : ∃ o : Outputs, ∀ s : State, exec i s = .next (s.present o) := by
  cases i with
  | checksum b0 b1 => exact ⟨_, fun _ => rfl⟩
  | encCmd v => exact ⟨_, fun _ => rfl⟩
  | encWord v => exact ⟨_, fun _ => rfl⟩
  | decWord r0 r1 r2 =>
    rcases decodeRecord_cases r0 r1 r2 with ⟨_, accepted⟩ | ⟨_, rejected⟩
    · exact ⟨_, fun _ => by simp only [exec, execDecWord, accepted]; rfl⟩
    · exact ⟨_, fun _ => by simp only [exec, execDecWord, rejected]; rfl⟩

/-- Settles O11: the outputs do not depend on the state, and driving outputs leaves the rest of it as it was. -/
theorem operationsCompleteAndChangeOnlyOutputs : Obligations.OperationsCompleteAndChangeOnlyOutputs := by
  refine ⟨fun i s => ?_, fun i s u => ?_⟩ <;> obtain ⟨o, ho⟩ := exec_eq_next_present i
  · exact ⟨s.present o, ho s, present_inp s o, present_draws s o, present_settled s o⟩
  · exact ⟨s.present o, u.present o, ho s, ho u, rfl⟩

/-- Defined inputs spell an operation word, and every operation word is legal (R42). -/
theorem step_of_ready {s : State} (h : s.ready) : ∃ o, step s = .next (s.present o) := by
  obtain ⟨x, hx⟩ := Option.isSome_iff_exists.mp h
  obtain ⟨o, ho⟩ := exec_eq_next_present (decode x.opword)
  exact ⟨o, by rw [step_of_inp s hx, ho]⟩

/-- The one refusal (R24, U9). -/
theorem step_of_not_ready {s : State} (h : ¬ s.ready) : step s = .refused .undefinedInputs := by
  have undefined : s.inp = none := Option.not_isSome_iff_eq_none.mp h
  simp only [step, fetch_none s undefined]

/-- A hold evaluates defined inputs only, so it never meets the refusal of `step` (R24, R90). -/
theorem hold_total (t : Nat) (s : State) : ∃ s', s.hold t = .next s' := by
  rcases lt_or_ge t Config.tProp with short | long
  · exact ⟨s, hold_short s t short⟩
  · cases hx : s.inp with
    | none => exact ⟨s, hold_undefined s t hx⟩
    | some x =>
      obtain ⟨o, ho⟩ := step_of_ready (Option.isSome_iff_exists.mpr ⟨x, hx⟩)
      exact ⟨s.present o, by rw [hold_long s x t hx long, ho]⟩

theorem hostAct_total (a : HostAction) (s : State) : ∃ s', hostAct a s = .next s' := by
  cases a with
  | drive x => exact ⟨_, rfl⟩
  | release => exact ⟨_, rfl⟩
  | hold t => exact hold_total t s
  | sample => exact ⟨_, rfl⟩
  | systemReset => exact ⟨_, rfl⟩
  | powerCycle => exact ⟨_, rfl⟩

theorem hostRun_total (as : List HostAction) (s : State) : ∃ t, hostRun as s = .next t := by
  induction as generalizing s with
  | nil => exact ⟨s, rfl⟩
  | cons a as ih =>
    obtain ⟨s', ha⟩ := hostAct_total a s
    rw [hostRun_cons as ha]
    exact ih s'

/-- Settles O20: a step on defined inputs drives outputs and keeps the inputs; a host run is total action by action. -/
theorem nothingStopsTheBlockButUndefinedInputs : Obligations.NothingStopsTheBlockButUndefinedInputs := by
  refine ⟨fun s hs => ?_, fun s => step_of_not_ready, hostRun_total⟩
  obtain ⟨o, ho⟩ := step_of_ready hs
  have stillReady : (s.present o).ready := hs
  exact ⟨s.present o, ho, stillReady⟩

end Sys2Proof.Machine

namespace Sys2Proof.Machine

open Sys2Proof.Claims (reading)

/-! ## Refinement: decoder, dispatch and meanings together are R20's table -/

/-- The decoder on driven levels: `op` selects the operation, its operands are the levels themselves (R37, R40). -/
theorem decode_opword (x : Inputs) : decode x.opword =
    if x.op = 0b00#2 then .checksum x.din0 x.din1
    else if x.op = 0b01#2 then .encCmd x.vin
    else if x.op = 0b10#2 then .encWord x.vin
    else .decWord x.din0 x.din1 x.din2 := by
  simp only [decode, Inputs.opword, opField_opWordOf, din0Field_opWordOf, din1Field_opWordOf, din2Field_opWordOf,
    vinField_opWordOf]

/-- An accepted record drives its word (R65). -/
theorem exec_decWord_accepted {r0 r1 r2 : Byte} (s : State) (h : crc8 r0 r1 = r2) : exec (.decWord r0 r1 r2) s =
    .next (s.present ⟨0x00#8, 0x00#8, 0x00#8, 0#2, crc8 r0 r1, joinBytes r0 r1, 0#1⟩) := by
  rcases decodeRecord_cases r0 r1 r2 with ⟨_, accepted⟩ | ⟨differs, _⟩
  · simp only [exec, execDecWord, accepted]; rfl
  · exact absurd h differs

/-- A rejected record raises ChecksumMismatch (R73, R74). -/
theorem exec_decWord_rejected {r0 r1 r2 : Byte} (s : State) (h : crc8 r0 r1 ≠ r2) : exec (.decWord r0 r1 r2) s =
    .next (s.present ⟨0x00#8, 0x00#8, 0x00#8, 0#2, crc8 r0 r1, 0x0000#16, 1#1⟩) := by
  rcases decodeRecord_cases r0 r1 r2 with ⟨agrees, _⟩ | ⟨_, rejected⟩
  · exact absurd agrees h
  · simp only [exec, execDecWord, rejected]; rfl

/-- One evaluation of defined inputs presents the row of R20's table that they select. -/
theorem step_eq_present_portTable {s : State} {x : Inputs} (h : s.inp = some x) :
    step s = .next (s.present (portTable x)) := by
  rw [step_of_inp s h, decode_opword, portTable]
  split_ifs with checksum encCmd encWord accepted
  · rfl
  · rfl
  · rfl
  · exact exec_decWord_accepted s accepted.symm
  · exact exec_decWord_rejected s (Ne.symm accepted)

/-- Settles O13: presenting a row changes `out` and `settled` alone. -/
theorem stepIsTheOutputTable : Obligations.StepIsTheOutputTable :=
  fun _ _ h => step_eq_present_portTable h

theorem step_drive (s : State) (x : Inputs) : step (s.drive x) = .next ((s.drive x).present (portTable x)) :=
  step_eq_present_portTable (drive_inp s x)

/-- Defined inputs held for `T_PROP` present the table's row (R90). -/
theorem hold_eq_present_portTable {s : State} {x : Inputs} {t : Nat} (h : s.inp = some x) (long : Config.tProp ≤ t) :
    s.hold t = .next (s.present (portTable x)) := by
  rw [hold_long s x t h long, step_eq_present_portTable h]

@[simp] theorem present_sample (s : State) (o : Outputs) : (s.present o).sample = (o, s.present o) :=
  sample_settled _ (present_settled s o)

/-! ## Invariant: settled outputs are the table's for the driven inputs -/

theorem consistent_of_unsettled {s : State} (h : s.settled = false) : s.consistent := by
  intro settled
  simp [h] at settled

theorem present_portTable_consistent {s : State} {x : Inputs} (h : s.inp = some x) :
    (s.present (portTable x)).consistent :=
  fun _ => ⟨x, h, rfl⟩

/-- No premise on `s`: an evaluation makes any state consistent. -/
theorem step_consistent {s t : State} (h : step s = .next t) : t.consistent := by
  obtain ⟨x, hx, _⟩ := step_cases s h
  cases (step_eq_present_portTable hx).symm.trans h
  exact present_portTable_consistent hx

/-- Other levels unsettle the outputs; the same levels change nothing (R91). -/
theorem drive_consistent {s : State} (x : Inputs) (hs : s.consistent) : (s.drive x).consistent := by
  by_cases same : s.inp = some x
  · rwa [drive_same s x same]
  · exact consistent_of_unsettled (by rw [drive_other s x same])

theorem sample_consistent {s : State} (hs : s.consistent) : s.sample.2.consistent := by
  simpa only [State.consistent, sample_settled_field, sample_inp, sample_out] using hs

/-- A hold either evaluates the inputs or does nothing. -/
theorem hold_cases {s s' : State} {t : Nat} (h : s.hold t = .next s') : s' = s ∨ step s = .next s' := by
  unfold State.hold at h
  split at h
  · exact .inr h
  · cases h; exact .inl rfl

theorem hostAct_consistent {s t : State} {a : HostAction} (hs : s.consistent) (h : hostAct a s = .next t) :
    t.consistent := by
  cases a with
  | drive x => cases h; exact drive_consistent x hs
  | release => cases h; exact consistent_of_unsettled (release_settled s)
  | hold n =>
    rcases hold_cases h with rfl | evaluated
    · exact hs
    · exact step_consistent evaluated
  | sample => cases h; exact sample_consistent hs
  | systemReset => cases h; exact hs
  | powerCycle => cases h; exact consistent_of_unsettled (powerCycle_settled s)

theorem hostRun_consistent {s t : State} {as : List HostAction} (hs : s.consistent) (h : hostRun as s = .next t) :
    t.consistent := by
  induction as generalizing s with
  | nil => cases h; exact hs
  | cons a as ih =>
    obtain ⟨s', acted⟩ := hostAct_total a s
    rw [hostRun_cons as acted] at h
    exact ih (hostAct_consistent hs acted) h

/-- Settles O14: an evaluation establishes the invariant, every host action keeps it, and a run keeps it by induction on its
actions. -/
theorem stepsAndHostActionsKeepOutputsConsistent : Obligations.StepsAndHostActionsKeepOutputsConsistent :=
  ⟨fun _ _ _ => step_consistent, fun _ _ _ => hostAct_consistent, fun _ _ _ => hostRun_consistent⟩

/-- Settles O15: the outputs of the reset state are computed from the levels it drives; at power-up nothing is settled. -/
theorem resetStateIsConsistent : Obligations.ResetStateIsConsistent :=
  ⟨fun _ => ⟨_, rfl, by decide +kernel⟩, consistent_of_unsettled rfl⟩

/-! ## The step runs the decoded operation -/

/-- The decoder sees a word only through its fields, which are the levels that spell it. -/
theorem decode_opword_ofOpword (w : OpWord) : decode (Inputs.ofOpword w).opword = decode w := by
  rw [decode_opword]; rfl

theorem decode_encode (i : Instr) : decode (encode i) = i := by
  cases i <;> simp [decode, encode]

/-- A fetch of at least 42 bits truncates nothing. -/
theorem withFetchWord_eq_drive (s : State) (w : OpWord) {nbits : Nat} (h : 42 ≤ nbits) :
    s.withFetchWord nbits w.toNat = s.drive (Inputs.ofOpword w) := by
  have fits : w.toNat < 2 ^ nbits := w.isLt.trans_le (Nat.pow_le_pow_right (by decide) h)
  rw [State.withFetchWord, Nat.mod_eq_of_lt fits, BitVec.ofNat_toNat, BitVec.setWidth_eq]

theorem step_drive_ofOpword (s : State) (w : OpWord) :
    step (s.drive (Inputs.ofOpword w)) = exec (decode w) (s.drive (Inputs.ofOpword w)) := by
  rw [step_of_inp _ (drive_inp s _), decode_opword_ofOpword]

/-- Settles O12: fetching and driving both leave on the inputs the levels of a word, and an instruction's word decodes to
that instruction. -/
theorem stepRunsTheDecodedOperation : Obligations.StepRunsTheDecodedOperation := by
  refine ⟨fun s _ => step_of_inp s, fun s w nbits h => ?_, fun s i => ?_⟩
  · rw [withFetchWord_eq_drive s w h]
    exact ⟨drive_inp s _, step_drive_ofOpword s w⟩
  · rw [Inputs.ofInstr, step_drive_ofOpword, decode_encode]

/-! ## Histories and undefined inputs -/

theorem hostRun_append {as : List HostAction} {s t : State} (bs : List HostAction) (h : hostRun as s = .next t) :
    hostRun (as ++ bs) s = hostRun bs t := by
  induction as generalizing s with
  | nil => cases h; rfl
  | cons a as ih =>
    obtain ⟨s', acted⟩ := hostAct_total a s
    rw [hostRun_cons as acted] at h
    rw [List.cons_append, hostRun_cons _ acted, ih h]

/-- Driving and holding for `T_PROP` shows the table's outputs, whatever state it begins in (R90). -/
theorem hostRun_drive_hold (s : State) (x : Inputs) {t : Nat} (long : Config.tProp ≤ t) :
    hostRun [.drive x, .hold t] s = .next ((s.drive x).present (portTable x)) := by
  have driven : hostAct (.drive x) s = .next (s.drive x) := rfl
  have evaluated : hostAct (.hold t) (s.drive x) = .next ((s.drive x).present (portTable x)) :=
    hold_eq_present_portTable (drive_inp s x) long
  rw [hostRun_cons _ driven, hostRun_cons _ evaluated, hostRun]

theorem evaluation_after_history (as : List HostAction) (s : State) (x : Inputs) {t : Nat} (long : Config.tProp ≤ t) :
    ∃ s', hostRun (as ++ [.drive x, .hold t]) s = .next s' ∧ s'.sample.1 = portTable x := by
  obtain ⟨before, ran⟩ := hostRun_total as s
  refine ⟨(before.drive x).present (portTable x), ?_, ?_⟩
  · rw [hostRun_append _ ran, hostRun_drive_hold before x long]
  · rw [present_sample]

/-- Settles O16: both histories end in samples of the table's outputs. -/
theorem noEvaluationDependsOnAnEarlierOne : Obligations.NoEvaluationDependsOnAnEarlierOne := by
  intro as bs s r x t u long_t long_u
  obtain ⟨s', ran_s, shows_s⟩ := evaluation_after_history as s x long_t
  obtain ⟨r', ran_r, shows_r⟩ := evaluation_after_history bs r x long_u
  exact ⟨s', r', ran_s, ran_r, shows_s.trans shows_r.symm, shows_s⟩

theorem release_sample (s : State) : s.release.sample.1 = freeOutputs s.draws := by
  rw [sample_unsettled _ (release_settled s), release_draws]

/-- A change of any input unsettles all outputs (R91). -/
theorem drive_other_sample {s : State} {x : Inputs} (h : s.inp ≠ some x) :
    (s.drive x).sample.1 = freeOutputs s.draws := by
  rw [drive_other s x h, sample_unsettled _ rfl]

/-- Settles O22: released or changed inputs leave the outputs unsettled until a hold of `T_PROP` evaluates them. -/
theorem undefinedOrChangedInputsGiveAnyOutput : Obligations.UndefinedOrChangedInputsGiveAnyOutput := by
  refine ⟨fun s undefined => ?_, fun s => ⟨release_sample s, fun t => hold_undefined _ t (release_inp s)⟩,
    fun s x => drive_other_sample, fun s x b hx hb => ?_, fun s x t long => ?_⟩
  · exact step_of_not_ready (by simp [State.ready, undefined])
  · have changed : s.inp ≠ some { x with op := b } := by
      rw [hx]
      intro same
      exact hb (congrArg Inputs.op (Option.some.inj same)).symm
    exact drive_other_sample changed
  · exact ⟨_, hold_eq_present_portTable (drive_inp s.release x) long, by rw [present_sample]⟩

/-! ## Verdicts and words -/

/-- The exact condition for `mismatch` (R21). -/
theorem portTable_mismatch_eq_one (x : Inputs) :
    (portTable x).mismatch = 1#1 ↔ x.op = 0b11#2 ∧ x.din2 ≠ crc8 x.din0 x.din1 := by
  unfold portTable
  split_ifs with checksum encCmd encWord accepted
  · simp [checksum]
  · simp [encCmd]
  · simp [encWord]
  · simp [accepted]
  · have isDecWord : x.op = 0b11#2 := by bv_omega
    simp [isDecWord, accepted]

/-- The failure is read off `op` and `mismatch` alone (R75, R94). -/
theorem verdict_eq_error_iff (r : Reading) :
    r.verdict = some (.error .checksumMismatch) ↔ r.op = 0b11#2 ∧ r.out.mismatch = 1#1 := by
  have bit : r.out.mismatch = 1#1 ↔ ¬ r.out.mismatch = 0#1 := by bv_omega
  unfold Reading.verdict
  split_ifs with isDecWord clear
  · simp [clear]
  · simp [isDecWord, bit, clear]
  · simp [isDecWord]

/-- Settles O25: the level, its verdict and its next value are all those of the table's row. -/
theorem mismatchIsALevelOfTheCurrentInputs : Obligations.MismatchIsALevelOfTheCurrentInputs := by
  intro s x hx
  refine ⟨s.present (portTable x), step_eq_present_portTable hx, portTable_mismatch_eq_one x, ?_,
    fun y => ⟨_, step_drive _ y, portTable_mismatch_eq_one y⟩⟩
  rw [present_sample, present_out, verdict_eq_error_iff]
  exact ⟨fun h => ⟨((portTable_mismatch_eq_one x).mp h).1, h⟩, And.right⟩

@[simp] theorem ofInstr_checksum (b0 b1 : Byte) :
    Inputs.ofInstr (.checksum b0 b1) = ⟨0b00#2, b0, b1, 0x00#8, 0x0000#16⟩ := by
  simp [Inputs.ofInstr, Inputs.ofOpword, encode]

@[simp] theorem ofInstr_encCmd (v : Word) :
    Inputs.ofInstr (.encCmd v) = ⟨0b01#2, 0x00#8, 0x00#8, 0x00#8, v⟩ := by
  simp [Inputs.ofInstr, Inputs.ofOpword, encode]

@[simp] theorem ofInstr_encWord (v : Word) :
    Inputs.ofInstr (.encWord v) = ⟨0b10#2, 0x00#8, 0x00#8, 0x00#8, v⟩ := by
  simp [Inputs.ofInstr, Inputs.ofOpword, encode]

@[simp] theorem ofInstr_decWord (r0 r1 r2 : Byte) :
    Inputs.ofInstr (.decWord r0 r1 r2) = ⟨0b11#2, r0, r1, r2, 0x0000#16⟩ := by
  simp [Inputs.ofInstr, Inputs.ofOpword, encode]

/-- A DEC_WORD's row reads as what its record decodes to (R65, R67). -/
theorem verdict_portTable_decWord {x : Inputs} (h : x.op = 0b11#2) :
    Reading.verdict ⟨x.op, portTable x⟩ = some (decodeRecord x.din0 x.din1 x.din2) := by
  rcases decodeRecord_cases x.din0 x.din1 x.din2 with ⟨agrees, accepted⟩ | ⟨differs, rejected⟩
  · simp [accepted, Reading.verdict, portTable, h, agrees, joinBytes_eq]
  · simp [rejected, Reading.verdict, portTable, h, differs.symm]

/-- The host's operation completes, and its reading is the table's row for the instruction's levels. -/
theorem hostOp_eq (i : Instr) (s : State) : ∃ s', hostOp i s = .next (s', reading i) :=
  ⟨_, by simp only [hostOp, step_drive, present_sample]; rfl⟩

/-- What the host learns of an operation: a DEC_WORD's record decoded, nothing of any other (R18, R20, R67). -/
theorem reading_verdict_eq_some_iff (i : Instr) (d : Except ChecksumMismatch Word) :
    (reading i).verdict = some d ↔ ∃ r0 r1 r2, i = .decWord r0 r1 r2 ∧ decodeRecord r0 r1 r2 = d := by
  cases i with
  | checksum b0 b1 => simp [reading, verdict_of_other]
  | encCmd v => simp [reading, verdict_of_other]
  | encWord v => simp [reading, verdict_of_other]
  | decWord r0 r1 r2 =>
    rw [reading, verdict_portTable_decWord (by simp)]
    simp

/-- Settles O57: a reading's verdict is some exactly for DEC_WORD, and then what the record decodes to. -/
theorem wordsComeFromDecWordOnly : Obligations.WordsComeFromDecWordOnly := by
  intro i s
  obtain ⟨s', completes⟩ := hostOp_eq i s
  refine ⟨s', reading i, completes, ?_, fun v => reading_verdict_eq_some_iff i (.ok v)⟩
  simp [reading_verdict_eq_some_iff]

/-! ## Lanes and wire positions -/

/-- Two bits of `dlen` never name more bytes than there are lanes (R18). -/
theorem wireBytes_length (o : Outputs) : o.wireBytes.length = o.dlen.toNat := by
  have lanes : o.dlen.toNat ≤ 3 := Nat.le_of_lt_succ o.dlen.isLt
  simpa [Outputs.wireBytes] using lanes

/-- Byte `k` on the wire is lane `k` (R19). -/
theorem wireBytes_getElem?_lane {o : Outputs} {k : Nat} {b : Byte} (h : o.wireBytes[k]? = some b) :
    (k = 0 ∧ b = o.dout0) ∨ (k = 1 ∧ b = o.dout1) ∨ (k = 2 ∧ b = o.dout2) := by
  have lane : [o.dout0, o.dout1, o.dout2][k]? = some b := by
    rw [Outputs.wireBytes, List.getElem?_take] at h
    exact (Option.ite_none_right_eq_some.mp h).2
  match k, lane with
  | 0, lane => exact .inl ⟨rfl, (Option.some.inj lane).symm⟩
  | 1, lane => exact .inr (.inl ⟨rfl, (Option.some.inj lane).symm⟩)
  | 2, lane => exact .inr (.inr ⟨rfl, (Option.some.inj lane).symm⟩)

/-- Two bytes of a command, three of a record, none of the operations that encode nothing (R31). -/
theorem portTable_dlen (x : Inputs) :
    (portTable x).dlen.toNat = if x.op = 0b01#2 then 2 else if x.op = 0b10#2 then 3 else 0 := by
  by_cases encCmd : x.op = 0b01#2
  · simp [portTable, encCmd]
  by_cases encWord : x.op = 0b10#2
  · simp [portTable, encWord]
  · simp only [portTable, encCmd, encWord, if_false]
    split_ifs <;> rfl

/-- Settles O34: the lanes of any outputs are wire positions, and the table's row says how many are valid. -/
theorem lanesAreWirePositions : Obligations.LanesAreWirePositions := by
  refine ⟨fun r0 r1 r2 => by simp, fun s x hx => ?_⟩
  exact ⟨_, step_eq_present_portTable hx, wireBytes_length _, portTable_dlen x, fun _ _ => wireBytes_getElem?_lane⟩

end Sys2Proof.Machine

namespace Sys2Proof.Machine

open Sys2Proof.Claims (reading)

/-! ## Repetition and independence -/

/-- Each operation of a sequence reads as it does on its own, whatever the state (R34). -/
theorem hostOps_eq (is : List Instr) (s : State) : ∃ s', hostOps is s = .next (s', is.map reading) := by
  induction is generalizing s with
  | nil => exact ⟨s, rfl⟩
  | cons i is ih =>
    obtain ⟨s', first⟩ := hostOp_eq i s
    obtain ⟨s'', rest⟩ := ih s'
    exact ⟨s'', hostOps_cons first rest⟩

/-- Settles O17: an evaluation keeps the inputs, so a second one presents the same row; sequences go by induction. -/
theorem evaluationsAreRepeatableInAnyOrder : Obligations.EvaluationsAreRepeatableInAnyOrder := by
  refine ⟨fun s t h => ?_, hostOps_eq⟩
  obtain ⟨x, hx, _⟩ := step_cases s h
  cases (step_eq_present_portTable hx).symm.trans h
  have stillDriven : (s.present (portTable x)).inp = some x := hx
  exact ⟨by rw [step_eq_present_portTable stillDriven, present_present], present_inp s _, present_draws s _⟩

/-- Settles O19: a host action always completes, and the bank replaces one entry by its result. -/
theorem instancesAreIndependent : Obligations.InstancesAreIndependent := by
  intro bank k a s hk
  obtain ⟨s', acted⟩ := hostAct_total a s
  have inBank : k < bank.length := (List.getElem?_eq_some_iff.mp hk).1
  exact ⟨bank.set k s', s', bankAct_of_hostAct hk acted, acted, List.getElem?_set_self inBank, List.length_set,
    fun _ other => List.getElem?_set_ne other.symm⟩

/-! ## Byte order -/

theorem toNat_eq_hiByte_loByte (v : Word) : v.toNat = (hiByte v).toNat * 256 + (loByte v).toNat := by
  simp only [hiByte, loByte, BitVec.extractLsb'_toNat, Nat.shiftRight_eq_div_pow]
  omega

/-- Joining is R26's shift and OR: bits below 8 come from the second byte, the others from the first. -/
theorem joinBytes_eq_shift_or (r0 r1 : Byte) : joinBytes r0 r1 = (r0.setWidth 16 <<< 8) ||| r1.setWidth 16 := by
  apply BitVec.eq_of_getLsbD_eq
  intro i hi
  rw [joinBytes_bit]
  split_ifs with low
  · simp [low, hi]
  · simp [low, hi, r1.getLsbD_of_ge i (by omega)]

/-- Settles O31: split and join are inverse, and the encoders split and the decoder joins. -/
theorem wordsAreBigEndianBothWays : Obligations.WordsAreBigEndianBothWays := by
  refine ⟨fun v => ⟨toNat_eq_hiByte_loByte v, joinBytes_split v⟩,
    fun r0 r1 => ⟨joinBytes_eq_shift_or r0 r1, hiByte_joinBytes r0 r1, loByte_joinBytes r0 r1⟩,
    fun v s => ⟨_, _, rfl, rfl, joinBytes_split v, joinBytes_split v⟩, fun r0 r1 s => ?_⟩
  exact ⟨_, exec_decWord_accepted s rfl, rfl⟩

/-! ## Encoded bytes -/

/-- An operation drives what the host reads of it, in every state (R34). -/
theorem exec_eq_present_reading (i : Instr) (s : State) : exec i s = .next (s.present (reading i).out) := by
  obtain ⟨o, drives⟩ := exec_eq_next_present i
  have evaluated := step_drive s (Inputs.ofInstr i)
  rw [Inputs.ofInstr, step_drive_ofOpword, decode_encode, drives] at evaluated
  have row : o = (reading i).out := congrArg State.out (Host.Outcome.next.inj evaluated)
  rw [drives, row]

theorem wireBytes_reading_encCmd (v : Word) : (reading (.encCmd v)).out.wireBytes = [hiByte v, loByte v] := by
  simp [reading, portTable, Outputs.wireBytes, hiByte, loByte]

theorem wireBytes_reading_encWord (v : Word) :
    (reading (.encWord v)).out.wireBytes = [hiByte v, loByte v, crc8 (hiByte v) (loByte v)] := by
  simp [reading, portTable, Outputs.wireBytes, hiByte, loByte]

/-- Settles O32: both encoders drive their row, of three valid lanes and of two. -/
theorem recordsCarryTheirChecksumAndCommandsDoNot : Obligations.RecordsCarryTheirChecksumAndCommandsDoNot :=
  ⟨fun v s => ⟨_, exec_eq_present_reading (.encWord v) s, wireBytes_reading_encWord v, by simp [reading, portTable]⟩,
    fun v s => ⟨_, exec_eq_present_reading (.encCmd v) s, wireBytes_reading_encCmd v⟩⟩

theorem frameBytes_encFrame (c : Word) (ws : List Word) :
    frameBytes ((.encCmd c :: ws.map .encWord).map reading) =
      [hiByte c, loByte c] ++ ws.flatMap (fun w => [hiByte w, loByte w, crc8 (hiByte w) (loByte w)]) := by
  simp only [frameBytes, List.map_cons, List.map_map, List.flatMap_cons, List.flatMap_map, Function.comp_apply,
    wireBytes_reading_encCmd, wireBytes_reading_encWord]

/-- Settles O37: each operation of the expansion gives its own bytes, whatever the state. -/
theorem commandFrameIsCommandThenRecords : Obligations.CommandFrameIsCommandThenRecords := by
  intro c ws s
  obtain ⟨s', ran⟩ := hostOps_eq (.encCmd c :: ws.map .encWord) s
  refine ⟨_, s', _, rfl, ran, frameBytes_encFrame c ws, ?_⟩
  rw [frameBytes_encFrame]
  simp only [List.length_append, List.length_flatMap, List.length_cons, List.length_nil, List.map_const',
    List.sum_replicate, smul_eq_mul]
  omega

/-! ## Record partition -/

/-- Whole records have a partition, and one or two bytes left over have none (R28, R32). -/
theorem partitionRecords_eq_none_iff (bytes : List Byte) : partitionRecords bytes = none ↔ ¬ 3 ∣ bytes.length := by
  induction bytes using partitionRecords.induct with
  | case1 => simp [partitionRecords]
  | case2 b0 b1 b2 rest rs whole ih => simpa [partitionRecords_cons] using ih
  | case3 b0 b1 b2 rest leftOver ih => simpa [partitionRecords_cons] using ih
  | case4 bytes notNil notThree =>
    match bytes with
    | [] => exact absurd rfl notNil
    | [_] => simp [partitionRecords]
    | [_, _] => simp [partitionRecords]
    | _ :: _ :: _ :: _ => exact absurd rfl (notThree _ _ _ _)

/-- The bytes of a record in wire order (R27). -/
def recordBytes (r : Byte × Byte × Byte) : List Byte := [r.1, r.2.1, r.2.2]

/-- A partition's records, one after another, are the stream (R28). -/
theorem partitionRecords_eq_some_iff (bytes : List Byte) (rs : List (Byte × Byte × Byte)) :
    partitionRecords bytes = some rs ↔ bytes = rs.flatMap recordBytes := by
  constructor
  · intro h
    induction bytes using partitionRecords.induct generalizing rs with
    | case1 => cases h; rfl
    | case2 b0 b1 b2 rest rs' whole ih =>
      rw [partitionRecords_cons, whole] at h
      cases h
      rw [ih rs' whole]
      rfl
    | case3 b0 b1 b2 rest leftOver => simp [partitionRecords_cons, leftOver] at h
    | case4 bytes notNil notThree => simp [partitionRecords] at h
  · rintro rfl
    induction rs with
    | nil => rfl
    | cons r rs ih =>
      rw [List.flatMap_cons, recordBytes]
      simp [partitionRecords_cons, ih]

theorem length_flatMap_recordBytes (rs : List (Byte × Byte × Byte)) :
    (rs.flatMap recordBytes).length = 3 * rs.length := by
  simp [recordBytes, Nat.mul_comm]

/-- Byte `j` of record `k` is byte `3k + j` of the stream (R28). -/
theorem getElem?_flatMap_recordBytes {rs : List (Byte × Byte × Byte)} {k j : Nat} {r : Byte × Byte × Byte}
    (hk : rs[k]? = some r) (hj : j < 3) : (rs.flatMap recordBytes)[3 * k + j]? = (recordBytes r)[j]? := by
  induction rs generalizing k with
  | nil => simp at hk
  | cons first rs ih =>
    cases k with
    | zero =>
      cases hk
      rw [List.flatMap_cons, Nat.mul_zero, Nat.zero_add, List.getElem?_append_left hj]
    | succ k =>
      have past : 3 * (k + 1) + j = (recordBytes first).length + (3 * k + j) := by
        rw [recordBytes, List.length_cons, List.length_cons, List.length_singleton]; omega
      rw [List.flatMap_cons, past, List.getElem?_append_right (Nat.le_add_right _ _), Nat.add_sub_cancel_left]
      exact ih hk

/-- Settles O35: the stream is its records one after another, so record `k` begins at byte `3k`. -/
theorem recordsSitAtMultiplesOfThree : Obligations.RecordsSitAtMultiplesOfThree := by
  refine fun bytes => ⟨fun rs h => ?_, ?_⟩
  · obtain rfl := (partitionRecords_eq_some_iff bytes rs).mp h
    refine ⟨length_flatMap_recordBytes rs, fun k r hk => ⟨?_, ?_, ?_, ?_⟩⟩
    · exact getElem?_flatMap_recordBytes (j := 0) hk (by decide)
    · exact getElem?_flatMap_recordBytes (j := 1) hk (by decide)
    · exact getElem?_flatMap_recordBytes (j := 2) hk (by decide)
    · simp [decOp]
  · rw [← Option.isSome_iff_exists, ← Option.ne_none_iff_isSome, Ne, partitionRecords_eq_none_iff, not_not]

/-! ## Record acceptance -/

/-- A record is accepted exactly when its third byte is the checksum of the first two (R65). -/
theorem decodeRecord_eq_ok_iff (r0 r1 r2 : Byte) (v : Word) :
    decodeRecord r0 r1 r2 = .ok v ↔ r2 = crc8 r0 r1 ∧ v = joinBytes r0 r1 := by
  rcases decodeRecord_cases r0 r1 r2 with ⟨agrees, accepted⟩ | ⟨differs, rejected⟩
  · simp [accepted, agrees, eq_comm]
  · simp [rejected, differs.symm]

theorem decodeRecord_crc8 (r0 r1 : Byte) : decodeRecord r0 r1 (crc8 r0 r1) = .ok (r0 ++ r1) :=
  (decodeRecord_eq_ok_iff ..).mpr ⟨rfl, (joinBytes_eq r0 r1).symm⟩

theorem verdict_reading_decOp (r : Byte × Byte × Byte) :
    (reading (decOp r)).verdict = some (decodeRecord r.1 r.2.1 r.2.2) :=
  (reading_verdict_eq_some_iff _ _).mpr ⟨_, _, _, rfl, rfl⟩

/-- A DEC_WORD's verdict, read off the state it leaves. -/
theorem exec_decWord_verdict (r0 r1 r2 : Byte) (s : State) : ∃ t, exec (.decWord r0 r1 r2) s = .next t ∧
    Reading.verdict ⟨0b11#2, t.out⟩ = some (decodeRecord r0 r1 r2) := by
  refine ⟨_, exec_eq_present_reading (.decWord r0 r1 r2) s, ?_⟩
  rw [← verdict_reading_decOp (r0, r1, r2)]
  simp [reading, decOp]

theorem frameVerdicts_decOps (rs : List (Byte × Byte × Byte)) :
    frameVerdicts ((rs.map decOp).map reading) = some (rs.map fun r => decodeRecord r.1 r.2.1 r.2.2) := by
  induction rs with
  | nil => rfl
  | cons r rs ih => simp only [List.map_cons, frameVerdicts_cons _ (verdict_reading_decOp r), ih, Option.map_some]

/-- The readings of a row of records combine to their decodings, all or nothing (R48, R76). -/
theorem frameWords_decOps (rs : List (Byte × Byte × Byte)) :
    frameWords ((rs.map decOp).map reading) = some (allOrNothing (rs.map fun r => decodeRecord r.1 r.2.1 r.2.2)) := by
  rw [frameWords, frameVerdicts_decOps, Option.map_some]

theorem hostOps_two_good_records (a b c d : Byte) (s : State) : ∃ s' rs,
    hostOps [.decWord a b (crc8 a b), .decWord c d (crc8 c d)] s = .next (s', rs) ∧
      frameWords rs = some (.ok [a ++ b, c ++ d]) := by
  obtain ⟨s', ran⟩ := hostOps_eq ([(a, b, crc8 a b), (c, d, crc8 c d)].map decOp) s
  refine ⟨s', _, ran, ?_⟩
  rw [frameWords_decOps]
  simp only [List.map_cons, List.map_nil, decodeRecord_crc8, allOrNothing]

/-- Settles O36: of two good records, the second begins with the checksum that makes bytes 1 to 3 a record too. -/
theorem misplacedRecordsCanBeAccepted : Obligations.MisplacedRecordsCanBeAccepted := by
  refine ⟨partitionRecords_eq_none_iff, fun b0 b1 b2 s => ?_,
    fun a b d => ⟨crc8 b (crc8 a b), fun s => ⟨hostOps_two_good_records a b _ d s, ?_⟩⟩⟩
  · obtain ⟨t, completes, verdict⟩ := exec_decWord_verdict b0 b1 b2 s
    exact ⟨t, completes, by simp [verdict, decodeRecord_eq_ok_iff]⟩
  · obtain ⟨t, completes, verdict⟩ := exec_decWord_verdict b (crc8 a b) (crc8 b (crc8 a b)) s
    exact ⟨t, completes, by rw [verdict, decodeRecord_crc8]⟩

end Sys2Proof.Machine

namespace Sys2Proof.Machine

open Sys2Proof.Claims (reading)

/-! ## The operation word: fields, masks and rows -/

/-- Every word is the concatenation of its own fields (R37). -/
@[simp] theorem opword_ofOpword (w : OpWord) : (Inputs.ofOpword w).opword = w := by
  apply BitVec.eq_of_getLsbD_eq
  intro i hi
  rw [Inputs.opword, opWordOf_bit]
  simp only [Inputs.ofOpword, opField, din0Field, din1Field, din2Field, vinField, BitVec.getLsbD_extractLsb']
  split_ifs with vin din2 din1 din0
  · simp [vin]
  · simp [show i - 16 < 8 by omega, show 16 + (i - 16) = i by omega]
  · simp [show i - 24 < 8 by omega, show 24 + (i - 24) = i by omega]
  · simp [show i - 32 < 8 by omega, show 32 + (i - 32) = i by omega]
  · simp [show i - 40 < 2 by omega, show 40 + (i - 40) = i by omega]

theorem opWordOf_fields (w : OpWord) :
    opWordOf (opField w) (din0Field w) (din1Field w) (din2Field w) (vinField w) = w :=
  opword_ofOpword w

/-- A mask acts on each field by itself. -/
theorem and_opWordOf (w : OpWord) (op : BitVec 2) (a b c : Byte) (v : Word) : w &&& opWordOf op a b c v =
    opWordOf (opField w &&& op) (din0Field w &&& a) (din1Field w &&& b) (din2Field w &&& c) (vinField w &&& v) := by
  conv_lhs => rw [← opWordOf_fields w]
  apply BitVec.eq_of_getLsbD_eq
  intro i hi
  simp only [BitVec.getLsbD_and, opWordOf_bit]
  split_ifs <;> rfl

/-- CHECKSUM reads `op`, `din0` and `din1` (R39). -/
theorem readMask_checksum (b0 b1 : Byte) : readMask (.checksum b0 b1) =
    opWordOf (.allOnes 2) (.allOnes 8) (.allOnes 8) 0#8 0#16 := rfl

/-- ENC_CMD reads `op` and `vin`. -/
theorem readMask_encCmd (v : Word) : readMask (.encCmd v) =
    opWordOf (.allOnes 2) 0#8 0#8 0#8 (.allOnes 16) := rfl

/-- ENC_WORD reads `op` and `vin`. -/
theorem readMask_encWord (v : Word) : readMask (.encWord v) =
    opWordOf (.allOnes 2) 0#8 0#8 0#8 (.allOnes 16) := rfl

/-- DEC_WORD reads `op` and the three byte lanes. -/
theorem readMask_decWord (r0 r1 r2 : Byte) : readMask (.decWord r0 r1 r2) =
    opWordOf (.allOnes 2) (.allOnes 8) (.allOnes 8) (.allOnes 8) 0#16 := rfl

theorem opField_cases (w : OpWord) :
    opField w = 0b00#2 ∨ opField w = 0b01#2 ∨ opField w = 0b10#2 ∨ opField w = 0b11#2 := by
  bv_omega

theorem decode_of_op00 {w : OpWord} (h : opField w = 0b00#2) : decode w = .checksum (din0Field w) (din1Field w) := by
  simp [decode, h]

theorem decode_of_op01 {w : OpWord} (h : opField w = 0b01#2) : decode w = .encCmd (vinField w) := by
  simp [decode, h]

theorem decode_of_op10 {w : OpWord} (h : opField w = 0b10#2) : decode w = .encWord (vinField w) := by
  simp [decode, h]

theorem decode_of_op11 {w : OpWord} (h : opField w = 0b11#2) :
    decode w = .decWord (din0Field w) (din1Field w) (din2Field w) := by
  simp [decode, h]

/-- Encoding a decoded word keeps `op` and the fields that are operands, and clears the others (R39, R46). -/
theorem encode_decode (w : OpWord) : encode (decode w) = w &&& readMask (decode w) := by
  rcases opField_cases w with op | op | op | op
  · simp only [decode_of_op00 op, readMask_checksum, and_opWordOf, op, encode, BitVec.and_allOnes, BitVec.and_zero]
  · simp only [decode_of_op01 op, readMask_encCmd, and_opWordOf, op, encode, BitVec.and_allOnes, BitVec.and_zero]
  · simp only [decode_of_op10 op, readMask_encWord, and_opWordOf, op, encode, BitVec.and_allOnes, BitVec.and_zero]
  · simp only [decode_of_op11 op, readMask_decWord, and_opWordOf, op, encode, BitVec.and_allOnes, BitVec.and_zero]

/-- A table word of at least 42 bits truncates no operation word. -/
theorem decodeTableWord_toNat (w : OpWord) {nbits : Nat} (h : 42 ≤ nbits) :
    decodeTableWord nbits w.toNat = some (decode w) := by
  have fits : w.toNat < 2 ^ nbits := w.isLt.trans_le (Nat.pow_le_pow_right (by decide) h)
  simp only [decodeTableWord, Nat.mod_eq_of_lt fits, decodeBits, if_pos w.isLt, BitVec.ofNat_toNat,
    BitVec.setWidth_eq]

/-- Settles O3: an instruction's word has its operands as fields; a word's read mask keeps the fields it decodes to. -/
theorem decodeAndEncodeAgree : Obligations.DecodeAndEncodeAgree :=
  ⟨decode_encode, encode_decode, fun i _ h => by rw [decodeTableWord_toNat _ h, decode_encode]⟩

/-- The number of a concatenation: the first part's, moved up by the second part's width. -/
theorem toNat_append_eq_mul_add {m n : Nat} (x : BitVec m) (y : BitVec n) :
    (x ++ y).toNat = x.toNat * 2 ^ n + y.toNat := by
  rw [BitVec.toNat_append, ← Nat.shiftLeft_add_eq_or_of_lt y.isLt, Nat.shiftLeft_eq]

/-- Settles O1: as a number, field by field, and back. -/
theorem operationWordIsThePortConcatenation : Obligations.OperationWordIsThePortConcatenation := by
  refine ⟨fun x => ?_, fun x => ?_, opword_ofOpword⟩
  · simp only [Inputs.opword, opWordOf, BitVec.toNat_cast, toNat_append_eq_mul_add]
    omega
  · simp only [Inputs.opword, opField_opWordOf, din0Field_opWordOf, din1Field_opWordOf, din2Field_opWordOf,
      vinField_opWordOf, and_self]

/-- R38's mask and R38's reading of `op` agree: only the two bits of `op` decide, so four values are to be compared. -/
theorem selects_iff_mnemonic {r : OpRow} (hr : r ∈ opcodeTable) (w : OpWord) :
    r.selects w = true ↔ r.mnemonic = (decode w).mnemonic := by
  have mask : r.mask = opWordOf (.allOnes 2) 0#8 0#8 0#8 0#16 := by revert r; decide
  have byOp : ∀ op : BitVec 2, ∀ r ∈ opcodeTable, opWordOf op 0#8 0#8 0#8 0#16 = r.pattern ↔
      r.mnemonic = (decode (opWordOf op 0#8 0#8 0#8 0#16)).mnemonic := by decide
  have opDecides : (decode (opWordOf (opField w) 0#8 0#8 0#8 0#16)).mnemonic = (decode w).mnemonic := by
    simp only [decode, opField_opWordOf]
    split_ifs <;> rfl
  rw [OpRow.selects, decide_eq_true_iff, mask, and_opWordOf]
  simp only [BitVec.and_allOnes, BitVec.and_zero]
  rw [byOp _ r hr, opDecides]

/-- The row of an operation's mnemonic, from the row that its word selects. -/
theorem exists_row (i : Instr) : ∃ r ∈ opcodeTable, r.mnemonic = i.mnemonic := by
  have selected : Laws.OpcodeRow.Statement i := by
    cases i with
    | checksum b0 b1 => exact Laws.OpcodeRow.checksum b0 b1
    | encCmd v => exact Laws.OpcodeRow.encCmd v
    | encWord v => exact Laws.OpcodeRow.encWord v
    | decWord r0 r1 r2 => exact Laws.OpcodeRow.decWord r0 r1 r2
  obtain ⟨r, hr, named, _⟩ := selected
  exact ⟨r, hr, named⟩

/-- No two rows carry the same mnemonic (R38). -/
theorem row_unique : ∀ r ∈ opcodeTable, ∀ q ∈ opcodeTable, r.mnemonic = q.mnemonic → r = q := by decide

/-- Settles O2: a word selects the rows that carry its operation's mnemonic, and there is one. -/
theorem everyWordSelectsExactlyOneRow : Obligations.EveryWordSelectsExactlyOneRow := by
  refine ⟨fun w => ?_, fun w r hr selected => ((selects_iff_mnemonic hr w).mp selected).symm, fun w => ?_⟩
  · obtain ⟨r, hr, named⟩ := exists_row (decode w)
    refine ⟨r, ⟨hr, (selects_iff_mnemonic hr w).mpr named⟩, fun q ⟨hq, selected⟩ => row_unique q hq r hr ?_⟩
    rw [(selects_iff_mnemonic hq w).mp selected, named]
  · exact ⟨fun op => by rw [decode_of_op00 op]; rfl, fun op => by rw [decode_of_op01 op]; rfl,
      fun op => by rw [decode_of_op10 op]; rfl, fun op => by rw [decode_of_op11 op]; rfl⟩

/-- Settles O5: the decoder hands the fields on, and an accepted record's value is its two bytes joined. -/
theorem operandsAreTheFieldsUnchanged : Obligations.OperandsAreTheFieldsUnchanged :=
  fun _ => ⟨decode_of_op00, decode_of_op01, decode_of_op10,
    fun op => ⟨decode_of_op11 op, fun _ accepted => ((decodeRecord_eq_ok_iff ..).mp accepted).2⟩⟩

/-- R20's table reads, in each row, only the fields of that row's operation (R39). -/
theorem portTable_congr {x y : Inputs} (op : x.op = y.op)
    (read : (x.op = 0b00#2 ∧ x.din0 = y.din0 ∧ x.din1 = y.din1) ∨ (x.op = 0b01#2 ∧ x.vin = y.vin) ∨
      (x.op = 0b10#2 ∧ x.vin = y.vin) ∨ (x.op = 0b11#2 ∧ x.din0 = y.din0 ∧ x.din1 = y.din1 ∧ x.din2 = y.din2)) :
    portTable x = portTable y := by
  rcases read with ⟨hx, din0, din1⟩ | ⟨hx, vin⟩ | ⟨hx, vin⟩ | ⟨hx, din0, din1, din2⟩ <;> rw [hx] at op
  · simp [portTable, hx, ← op, din0, din1]
  · simp [portTable, hx, ← op, vin]
  · simp [portTable, hx, ← op, vin]
  · simp [portTable, hx, ← op, din0, din1, din2]

/-- Settles O6: both steps present the same row of R20's table. -/
theorem ignoredFieldsNeverMatter : Obligations.IgnoredFieldsNeverMatter :=
  fun _ _ _ op read => ⟨_, _, step_eq_present_portTable rfl, step_eq_present_portTable rfl, portTable_congr op read⟩

/-- Settles O4: each word by evaluation. -/
theorem writtenOutWordsDecode : Obligations.WrittenOutWordsDecode := by
  refine ⟨?_, ?_, ?_, ?_, ?_, ?_⟩ <;> decide

/-- VERIFY's result is the acceptance of its record (R47). -/
theorem verified_reading_decWord (r0 r1 r2 : Byte) :
    verified (reading (.decWord r0 r1 r2)) = true ↔ r2 = crc8 r0 r1 := by
  have bit : (reading (.decWord r0 r1 r2)).out.mismatch = 0#1 ↔
      ¬ (reading (.decWord r0 r1 r2)).out.mismatch = 1#1 := by bv_omega
  rw [verified, decide_eq_true_iff, bit, reading, portTable_mismatch_eq_one]
  simp

/-- Settles O41: the one DEC_WORD completes, and its `mismatch` is clear exactly for a valid record. -/
theorem verifyReadsTheMismatchOfDecWord : Obligations.VerifyReadsTheMismatchOfDecWord := by
  intro r0 r1 r2 s
  obtain ⟨s', ran⟩ := hostOps_eq [.decWord r0 r1 r2] s
  exact ⟨rfl, s', _, ran, verified_reading_decWord r0 r1 r2⟩

end Sys2Proof.Machine

namespace Sys2Proof.Machine

open Sys2Proof.Claims (reading)

/-! ## Lines: what the assembler accepts, and what it then gives -/

/-- A mnemonic is its spelling in any letter case (R46). -/
theorem read_eq_some_iff (cs : List Char) (m : Mnemonic) :
    Mnemonic.read cs = some m ↔ cs.map Char.toUpper = m.spelling := by
  constructor
  · intro h
    simp only [Mnemonic.read] at h
    split_ifs at h with spelled spelled spelled spelled spelled spelled spelled <;> cases h <;> exact spelled
  · intro spelled
    simp only [Mnemonic.read, spelled]
    cases m <;> decide

theorem read_spelling (m : Mnemonic) : Mnemonic.read m.spelling = some m :=
  (read_eq_some_iff _ m).mpr (by cases m <;> decide)

/-- A line is refused by the checks of its mnemonic. -/
theorem assemble_spelling_error {m : Mnemonic} {ops : List Nat} {e : AsmError} (h : checkOperands m ops = .error e) :
    assemble ⟨m.spelling, ops⟩ = .error e := by
  simp only [assemble, AsmLine.check, read_spelling, h]

/-- A line is accepted when its mnemonic is known, its checks pass and something is built of it. -/
theorem assemble_eq_ok_iff (cs : List Char) (ops : List Nat) (it : AsmItem) : assemble ⟨cs, ops⟩ = .ok it ↔
    ∃ m, Mnemonic.read cs = some m ∧ checkOperands m ops = .ok () ∧ build m ops = some it := by
  simp only [assemble, AsmLine.check]
  cases Mnemonic.read cs with
  | none => simp
  | some m =>
    cases checked : checkOperands m ops with
    | error e => simp [checked]
    | ok u => cases built : build m ops <;> simp [checked, built]

/-! ## Frames -/

theorem verdict_eq_none_iff (r : Reading) : r.verdict = none ↔ r.op ≠ 0b11#2 := by
  simp [Reading.verdict]

/-- The verdicts of a row of readings, when every reading has one. -/
theorem frameVerdicts_eq_some_iff (rs : List Reading) (ds : List (Except ChecksumMismatch Word)) :
    frameVerdicts rs = some ds ↔ rs.map Reading.verdict = ds.map some := by
  induction rs generalizing ds with
  | nil => cases ds <;> simp [frameVerdicts]
  | cons r rs ih =>
    cases verdict : r.verdict with
    | none => cases ds <;> simp [frameVerdicts_cons_none rs verdict, verdict]
    | some d =>
      rw [frameVerdicts_cons rs verdict, List.map_cons, verdict]
      cases ds with
      | nil => simp
      | cons d' ds => simp [ih, and_comm]

/-- One reading of another operation takes the verdicts of all away (R18, R20). -/
theorem frameVerdicts_eq_none_iff (rs : List Reading) : frameVerdicts rs = none ↔ ∃ r ∈ rs, r.op ≠ 0b11#2 := by
  induction rs with
  | nil => simp [frameVerdicts]
  | cons r rs ih =>
    rw [List.exists_mem_cons_iff, ← ih, ← verdict_eq_none_iff]
    cases verdict : r.verdict with
    | none => simp [frameVerdicts_cons_none rs verdict]
    | some d => simp [frameVerdicts_cons rs verdict]

theorem allOrNothing_eq_ok_iff (ds : List (Except ChecksumMismatch Word)) (vs : List Word) :
    allOrNothing ds = .ok vs ↔ ds = vs.map .ok := by
  induction ds generalizing vs with
  | nil => cases vs <;> simp [allOrNothing]
  | cons d ds ih =>
    cases d with
    | error e => cases vs <;> simp [allOrNothing_cons_error]
    | ok v =>
      rw [allOrNothing_cons_ok]
      cases vs with
      | nil => cases allOrNothing ds <;> simp [Except.map]
      | cons w vs =>
        rw [List.map_cons, List.cons.injEq, ← ih]
        cases allOrNothing ds <;> simp [Except.map]

/-- One failure fails all (R76). -/
theorem allOrNothing_eq_error_iff (ds : List (Except ChecksumMismatch Word)) :
    allOrNothing ds = .error .checksumMismatch ↔ .error .checksumMismatch ∈ ds := by
  induction ds with
  | nil => simp [allOrNothing]
  | cons d ds ih =>
    cases d with
    | error e => simp [allOrNothing_cons_error]
    | ok v =>
      rw [allOrNothing_cons_ok, List.mem_cons, ← ih]
      cases allOrNothing ds <;> simp [Except.map]

theorem frameWords_eq_ok_iff (rs : List Reading) (vs : List Word) :
    frameWords rs = some (.ok vs) ↔ rs.map Reading.verdict = vs.map (fun v => some (.ok v)) := by
  simp [frameWords, frameVerdicts_eq_some_iff, allOrNothing_eq_ok_iff, Function.comp_def]

theorem frameWords_eq_none_iff (rs : List Reading) : frameWords rs = none ↔ ∃ r ∈ rs, r.op ≠ 0b11#2 := by
  rw [frameWords, Option.map_eq_none_iff, frameVerdicts_eq_none_iff]

/-- The failure needs a verdict of every reading, and one that is a failure (R76). -/
theorem frameWords_eq_error_iff (rs : List Reading) : frameWords rs = some (.error .checksumMismatch) ↔
    (∀ r ∈ rs, r.op = 0b11#2) ∧ ∃ r ∈ rs, r.verdict = some (.error .checksumMismatch) := by
  cases verdicts : frameVerdicts rs with
  | none =>
    obtain ⟨r, hr, other⟩ := (frameVerdicts_eq_none_iff rs).mp verdicts
    simp only [frameWords, verdicts, Option.map_none, reduceCtorEq, false_iff]
    exact fun h => other (h.1 r hr)
  | some ds =>
    have allDecWord : ∀ r ∈ rs, r.op = 0b11#2 := by
      by_contra other
      have noVerdicts := (frameVerdicts_eq_none_iff rs).mpr (by simpa using other)
      simp [verdicts] at noVerdicts
    have failure : (∃ r ∈ rs, r.verdict = some (.error .checksumMismatch)) ↔ .error .checksumMismatch ∈ ds := by
      rw [← List.mem_map, (frameVerdicts_eq_some_iff rs ds).mp verdicts]
      simp
    rw [failure, frameWords, verdicts, Option.map_some, Option.some_inj, allOrNothing_eq_error_iff,
      and_iff_right allDecWord]

/-- The frame of some records expands to their DEC_WORDs (R48). -/
theorem expand_decFrame_records {rs : List (Byte × Byte × Byte)} (some_record : rs ≠ []) :
    expand (.decFrame rs.length (rs.flatMap recordBytes)) = some (rs.map decOp) := by
  have partition := (partitionRecords_eq_some_iff _ rs).mpr rfl
  have positive : 1 ≤ rs.length := List.length_pos_iff.mpr some_record
  rw [expand, if_pos ⟨positive, length_flatMap_recordBytes rs⟩, partition, Option.map_some]

/-- A stream of `3n` bytes is `n` records (R28). -/
theorem exists_records {n : Nat} {bytes : List Byte} (h : bytes.length = 3 * n) :
    ∃ rs, partitionRecords bytes = some rs ∧ bytes = rs.flatMap recordBytes ∧ rs.length = n := by
  cases partition : partitionRecords bytes with
  | none => exact absurd ⟨n, h⟩ ((partitionRecords_eq_none_iff bytes).mp partition)
  | some rs =>
    have stream := (partitionRecords_eq_some_iff bytes rs).mp partition
    refine ⟨rs, rfl, stream, ?_⟩
    rw [stream, length_flatMap_recordBytes] at h
    omega

theorem decodeRecord_encodeRecord (v : Word) :
    decodeRecord (encodeRecord v).1 (encodeRecord v).2.1 (encodeRecord v).2.2 = .ok v :=
  (decodeRecord_eq_ok_iff ..).mpr ⟨rfl, (joinBytes_split v).symm⟩

/-- The readings of encoded records give the encoded words back (R68, R76). -/
theorem frameWords_encodedRecords (ws : List Word) :
    frameWords (((ws.map encodeRecord).map decOp).map reading) = some (.ok ws) := by
  rw [frameWords_decOps, Option.some_inj, allOrNothing_eq_ok_iff, List.map_map]
  exact List.map_congr_left fun v _ => decodeRecord_encodeRecord v

/-- After its two command bytes an encoded frame is the records of its payload (R29). -/
theorem drop_frameBytes_encFrame (c : Word) (ws : List Word) :
    (frameBytes ((.encCmd c :: ws.map .encWord).map reading)).drop 2 = (ws.map encodeRecord).flatMap recordBytes := by
  rw [frameBytes_encFrame, List.flatMap_map]
  rfl

/-- Sending a frame and decoding its records gives the payload back (R48). -/
theorem encFrame_decFrame_roundTrip (c : Word) {ws : List Word} (s : State) (payload : ws ≠ []) :
    ∃ is s' os js s'' qs, expand (.encFrame c ws) = some is ∧ hostOps is s = .next (s', os) ∧
      expand (.decFrame ws.length ((frameBytes os).drop 2)) = some js ∧ hostOps js s' = .next (s'', qs) ∧
      frameWords qs = some (.ok ws) := by
  obtain ⟨s', sent⟩ := hostOps_eq (.encCmd c :: ws.map .encWord) s
  obtain ⟨s'', received⟩ := hostOps_eq ((ws.map encodeRecord).map decOp) s'
  have expansion := expand_decFrame_records (rs := ws.map encodeRecord) (by simpa using payload)
  rw [List.length_map, ← drop_frameBytes_encFrame c] at expansion
  exact ⟨_, s', _, _, s'', _, rfl, sent, expansion, received, frameWords_encodedRecords ws⟩

/-- Settles O39: an expansion is partition and DEC_WORDs, its result all or nothing, and records give their words
back. -/
theorem framesExpandCombineAndRoundTrip : Obligations.FramesExpandCombineAndRoundTrip := by
  refine ⟨fun c ws => rfl, fun c ws s => ?_, fun n bytes positive length => ?_, fun n bytes refused => ?_,
    fun n bytes positive length => ?_, fun bytes => ?_, frameWords_eq_ok_iff, frameWords_eq_error_iff,
    frameWords_eq_none_iff, fun c ws s => encFrame_decFrame_roundTrip c s⟩
  · obtain ⟨s', ran⟩ := hostOps_eq (.encCmd c :: ws.map .encWord) s
    exact ⟨s', _, ran, frameBytes_encFrame c ws⟩
  · obtain ⟨rs, partition, rfl, rfl⟩ := exists_records length
    exact ⟨rs, partition, rfl, expand_decFrame_records (List.length_pos_iff.mp positive)⟩
  · exact if_neg (by omega)
  · have nonzero : n ≠ 0 := Nat.one_le_iff_ne_zero.mp positive
    exact assemble_spelling_error (m := .decFrame) (by simp [checkOperands, nonzero, length])
  · exact assemble_spelling_error (m := .decFrame) (by simp [checkOperands])

end Sys2Proof.Machine

namespace Sys2Proof.Machine

open Sys2Proof.Claims (positional)

/-! ## Numerals: digits and their positional value -/

/-- In upper case the sixteen digits have the codes of `0` to `9` and of `A` to `F`. -/
theorem toNat_toUpper_digitChar {d : Nat} (h : d < 16) :
    (d < 10 ∧ (Nat.digitChar d).toUpper.toNat = d + 48) ∨ (10 ≤ d ∧ (Nat.digitChar d).toUpper.toNat = d + 55) := by
  revert d
  decide

/-- A character is a digit when it is that digit's character in either case (log entry 10). -/
theorem digitOf_eq_some_iff {base : Nat} (hb : base ≤ 16) (c : Char) (d : Nat) :
    digitOf base c = some d ↔ d < base ∧ c.toUpper = (Nat.digitChar d).toUpper := by
  have byCode : d < base → (c.toUpper = (Nat.digitChar d).toUpper ↔
      (d < 10 ∧ c.toUpper.toNat = d + 48) ∨ (10 ≤ d ∧ c.toUpper.toNat = d + 55)) := by
    intro small
    have code := toNat_toUpper_digitChar (small.trans_le hb)
    rw [← Char.toNat_inj]
    omega
  rw [and_congr_right byCode, digitOf]
  generalize c.toUpper.toNat = u
  split_ifs with decimal hexadecimal
  · simp only [Option.ite_none_right_eq_some, Option.some_inj]
    omega
  · simp only [Option.ite_none_right_eq_some, Option.some_inj]
    omega
  · simp only [false_iff]
    omega

/-- A row of digits is read when every character is a digit, each place worth `base` times the next. -/
theorem digitsValue_eq_some_iff {base : Nat} (hb : base ≤ 16) (acc : Nat) (us : List Char) (n : Nat) :
    digitsValue base acc us = some n ↔ ∃ ds : List Nat,
      us.map Char.toUpper = ds.map (fun d => (Nat.digitChar d).toUpper) ∧ (∀ d ∈ ds, d < base) ∧
      n = ds.foldl (fun n d => n * base + d) acc := by
  induction us generalizing acc with
  | nil => simpa [digitsValue] using eq_comm
  | cons c us ih =>
    have first := digitOf_eq_some_iff hb c
    rw [digitsValue]
    cases digit : digitOf base c with
    | none =>
      simp only [digit, reduceCtorEq, false_iff] at first ⊢
      rintro ⟨ds, spelled, small, -⟩
      cases ds with
      | nil => simp at spelled
      | cons d ds =>
        exact first d ⟨small d List.mem_cons_self, (List.cons.inj spelled).1⟩
    | some d =>
      obtain ⟨small, spelled⟩ := (first d).mp digit
      simp only [ih]
      constructor
      · rintro ⟨ds, rest, smallRest, rfl⟩
        exact ⟨d :: ds, by simp [spelled, rest], by simpa [small] using smallRest, rfl⟩
      · rintro ⟨ds, all, smallAll, rfl⟩
        cases ds with
        | nil => simp at all
        | cons e ds =>
          obtain ⟨spelledE, rest⟩ := List.cons.inj all
          have same : d = e :=
            Option.some.inj (digit.symm.trans ((first e).mpr ⟨smallAll e List.mem_cons_self, spelledE⟩))
          subst same
          exact ⟨ds, rest, fun x hx => smallAll x (List.mem_cons_of_mem _ hx), rfl⟩

/-- The same for a non-empty row, read from zero. -/
theorem digitRow_eq_some_iff {base : Nat} (hb : base ≤ 16) (us : List Char) (n : Nat) :
    us ≠ [] ∧ digitsValue base 0 us = some n ↔ ∃ ds : List Nat, ds ≠ [] ∧
      us.map Char.toUpper = ds.map (fun d => (Nat.digitChar d).toUpper) ∧ (∀ d ∈ ds, d < base) ∧
      n = positional base ds := by
  rw [digitsValue_eq_some_iff hb, ← exists_and_left]
  refine exists_congr fun ds => ?_
  have empty : us.map Char.toUpper = ds.map (fun d => (Nat.digitChar d).toUpper) → (us ≠ [] ↔ ds ≠ []) := by
    intro spelled
    rw [← List.length_pos_iff, ← List.length_pos_iff, ← List.length_map Char.toUpper, spelled, List.length_map]
  constructor
  · exact fun ⟨some_digit, spelled, rest⟩ => ⟨(empty spelled).mp some_digit, spelled, rest⟩
  · exact fun ⟨some_digit, spelled, rest⟩ => ⟨(empty spelled).mpr some_digit, spelled, rest⟩

/-- The three forms; neither `x` nor `b` is a decimal digit, so they do not overlap. -/
theorem numeral_eq_some_iff (t : List Char) (n : Nat) : numeral t = some n ↔
    (t ≠ [] ∧ digitsValue 10 0 t = some n) ∨
    (∃ us, t = '0' :: 'x' :: us ∧ us ≠ [] ∧ digitsValue 16 0 us = some n) ∨
    (∃ us, t = '0' :: 'b' :: us ∧ us ≠ [] ∧ digitsValue 2 0 us = some n) := by
  have zero : digitOf 10 '0' = some 0 := by decide
  have letter_x : digitOf 10 'x' = none := by decide
  have letter_b : digitOf 10 'b' = none := by decide
  unfold numeral
  split
  · simp
  · simp [digitsValue, zero, letter_x]
  · simp [digitsValue, zero, letter_b]
  · next c cs noHex noBin =>
    simp only [ne_eq, reduceCtorEq, not_false_eq_true, true_and]
    refine (or_iff_left ?_).symm
    rintro (⟨us, spelling, some_digit, _⟩ | ⟨us, spelling, some_digit, _⟩)
    · obtain ⟨u, us, rfl⟩ := List.exists_cons_of_ne_nil some_digit
      obtain ⟨rfl, rfl⟩ := List.cons.inj spelling
      exact noHex u us rfl rfl
    · obtain ⟨u, us, rfl⟩ := List.exists_cons_of_ne_nil some_digit
      obtain ⟨rfl, rfl⟩ := List.cons.inj spelling
      exact noBin u us rfl rfl

/-- Settles O58: each form is a row of digits in its base. -/
theorem numeralsAreTheNotationOfTheSpec : Obligations.NumeralsAreTheNotationOfTheSpec := by
  intro t n
  simp only [numeral_eq_some_iff, digitRow_eq_some_iff (show 10 ≤ 16 by decide),
    digitRow_eq_some_iff (show 16 ≤ 16 by decide), digitRow_eq_some_iff (show 2 ≤ 16 by decide)]
  constructor
  · rintro (⟨ds, some_digit, spelled, value⟩ | ⟨us, rfl, ds, some_digit, spelled, value⟩ |
      ⟨us, rfl, ds, some_digit, spelled, value⟩)
    · exact ⟨ds, t, some_digit, spelled, .inl ⟨rfl, value⟩⟩
    · exact ⟨ds, us, some_digit, spelled, .inr (.inl ⟨rfl, value⟩)⟩
    · exact ⟨ds, us, some_digit, spelled, .inr (.inr ⟨rfl, value⟩)⟩
  · rintro ⟨ds, us, some_digit, spelled, ⟨rfl, value⟩ | ⟨rfl, value⟩ | ⟨rfl, value⟩⟩
    · exact .inl ⟨ds, some_digit, spelled, value⟩
    · exact .inr (.inl ⟨us, rfl, ds, some_digit, spelled, value⟩)
    · exact .inr (.inr ⟨us, rfl, ds, some_digit, spelled, value⟩)

end Sys2Proof.Machine

namespace Sys2Proof.Machine

/-! ## A mnemonic's operands: counts and ranges -/

theorem checkBytes_eq_ok_iff (ops : List Nat) : checkBytes ops = .ok () ↔ ∀ n ∈ ops, n ≤ 0xFF := by
  simp [checkBytes, Nat.lt_succ_iff]

theorem checkValues_eq_ok_iff (ops : List Nat) : checkValues ops = .ok () ↔ ∀ n ∈ ops, n ≤ 0xFFFF := by
  simp [checkValues, Nat.lt_succ_iff]

theorem checkCount_eq_ok_iff (n : Nat) (ops : List Nat) (range : Except AsmError Unit) :
    checkCount n ops range = .ok () ↔ ops.length = n ∧ range = .ok () := by
  unfold checkCount
  split_ifs with count <;> simp [count]

/-- The byte operations and VERIFY (R46, R47). -/
theorem checkCount_bytes_eq_ok_iff (n : Nat) (ops : List Nat) :
    checkCount n ops (checkBytes ops) = .ok () ↔ ops.length = n ∧ ∀ n ∈ ops, n ≤ 0xFF := by
  rw [checkCount_eq_ok_iff, checkBytes_eq_ok_iff]

/-- The value operations (R46). -/
theorem checkCount_values_eq_ok_iff (n : Nat) (ops : List Nat) :
    checkCount n ops (checkValues ops) = .ok () ↔ ops.length = n ∧ ∀ n ∈ ops, n ≤ 0xFFFF := by
  rw [checkCount_eq_ok_iff, checkValues_eq_ok_iff]

/-- A command code and any number of payload words (R48). -/
theorem checkOperands_encFrame_iff (ops : List Nat) :
    checkOperands .encFrame ops = .ok () ↔ ops ≠ [] ∧ ∀ n ∈ ops, n ≤ 0xFFFF := by
  cases ops <;> simp [checkOperands, checkValues_eq_ok_iff]

/-- At least one record, and the bytes of exactly that many (R48). -/
theorem checkOperands_decFrame_iff (ops : List Nat) : checkOperands .decFrame ops = .ok () ↔
    ∃ n bytes, ops = n :: bytes ∧ 1 ≤ n ∧ bytes.length = 3 * n ∧ ∀ b ∈ bytes, b ≤ 0xFF := by
  cases ops with
  | nil => simp [checkOperands]
  | cons n bytes =>
    simp only [checkOperands, List.cons.injEq, Nat.one_le_iff_ne_zero]
    split_ifs with zero length
    · simp [zero]
    · simp [zero, length, checkBytes_eq_ok_iff]
    · simp [length]

/-- Numerals that fit a width are not changed by it. -/
theorem map_toNat_ofNat {w : Nat} {ns : List Nat} (h : ∀ n ∈ ns, n < 2 ^ w) :
    (ns.map (BitVec.ofNat w)).map BitVec.toNat = ns := by
  rw [List.map_map]
  exact (List.map_congr_left fun n hn => Nat.mod_eq_of_lt (h n hn)).trans (List.map_id ns)

/-- Checked operands stand for an item, and the line that writes it has these operands again. -/
theorem build_of_checked {m : Mnemonic} {ops : List Nat} (h : checkOperands m ops = .ok ()) :
    ∃ it, build m ops = some it ∧ it.line = ⟨m.spelling, ops⟩ := by
  have byte {n : Nat} (small : n ≤ 0xFF) : n % 256 = n := Nat.mod_eq_of_lt (Nat.lt_succ_of_le small)
  have word {n : Nat} (small : n ≤ 0xFFFF) : n % 65536 = n := Nat.mod_eq_of_lt (Nat.lt_succ_of_le small)
  cases m with
  | checksum =>
    obtain ⟨count, small⟩ := (checkCount_bytes_eq_ok_iff 2 ops).mp h
    obtain ⟨a, b, rfl⟩ := List.length_eq_two.mp count
    simp only [List.forall_mem_cons] at small
    exact ⟨_, rfl, by simp [AsmItem.line, byte small.1, byte small.2.1]⟩
  | encCmd =>
    obtain ⟨count, small⟩ := (checkCount_values_eq_ok_iff 1 ops).mp h
    obtain ⟨v, rfl⟩ := List.length_eq_one_iff.mp count
    exact ⟨_, rfl, by simp [AsmItem.line, word (small v List.mem_cons_self)]⟩
  | encWord =>
    obtain ⟨count, small⟩ := (checkCount_values_eq_ok_iff 1 ops).mp h
    obtain ⟨v, rfl⟩ := List.length_eq_one_iff.mp count
    exact ⟨_, rfl, by simp [AsmItem.line, word (small v List.mem_cons_self)]⟩
  | decWord =>
    obtain ⟨count, small⟩ := (checkCount_bytes_eq_ok_iff 3 ops).mp h
    obtain ⟨a, b, c, rfl⟩ := List.length_eq_three.mp count
    simp only [List.forall_mem_cons] at small
    exact ⟨_, rfl, by simp [AsmItem.line, byte small.1, byte small.2.1, byte small.2.2.1]⟩
  | verify =>
    obtain ⟨count, small⟩ := (checkCount_bytes_eq_ok_iff 3 ops).mp h
    obtain ⟨a, b, c, rfl⟩ := List.length_eq_three.mp count
    simp only [List.forall_mem_cons] at small
    exact ⟨_, rfl, by simp [AsmItem.line, byte small.1, byte small.2.1, byte small.2.2.1]⟩
  | encFrame =>
    obtain ⟨some_operand, small⟩ := (checkOperands_encFrame_iff ops).mp h
    obtain ⟨c, ws, rfl⟩ := List.exists_cons_of_ne_nil some_operand
    obtain ⟨code, payload⟩ := List.forall_mem_cons.mp small
    refine ⟨_, rfl, ?_⟩
    rw [AsmItem.line, map_toNat_ofNat fun n hn => Nat.lt_succ_of_le (payload n hn), BitVec.toNat_ofNat, word code]
  | decFrame =>
    obtain ⟨n, bytes, rfl, -, -, small⟩ := (checkOperands_decFrame_iff ops).mp h
    refine ⟨_, rfl, ?_⟩
    rw [AsmItem.line, map_toNat_ofNat fun n hn => Nat.lt_succ_of_le (small n hn)]

/-- A spelled mnemonic's line is accepted exactly when its checks pass. -/
theorem accepted_iff_checked (m : Mnemonic) (ops : List Nat) :
    (∃ it, assemble ⟨m.spelling, ops⟩ = .ok it) ↔ checkOperands m ops = .ok () := by
  constructor
  · rintro ⟨it, accepted⟩
    obtain ⟨m', named, checked, -⟩ := (assemble_eq_ok_iff _ _ _).mp accepted
    cases (read_spelling m).symm.trans named
    exact checked
  · intro checked
    obtain ⟨it, built, -⟩ := build_of_checked checked
    exact ⟨it, (assemble_eq_ok_iff _ _ _).mpr ⟨m, read_spelling m, checked, built⟩⟩

/-- An accepted line is the line of its item, but for the letter case of its mnemonic. -/
theorem line_of_accepted {l : AsmLine} {it : AsmItem} (accepted : assemble l = .ok it) :
    it.line = ⟨l.mnemonic.map Char.toUpper, l.operands⟩ := by
  obtain ⟨m, named, checked, built⟩ := (assemble_eq_ok_iff _ _ _).mp accepted
  obtain ⟨it', built', line⟩ := build_of_checked checked
  cases built.symm.trans built'
  rw [line, (read_eq_some_iff _ m).mp named]

/-- Letter case is not significant (R46). -/
theorem assemble_congr_toUpper {cs ds : List Char} (ops : List Nat) (h : cs.map Char.toUpper = ds.map Char.toUpper) :
    assemble ⟨cs, ops⟩ = assemble ⟨ds, ops⟩ := by
  simp only [assemble, AsmLine.check, Mnemonic.read, h]

theorem assemble_spelling_ok {m : Mnemonic} {ops : List Nat} {it : AsmItem} (checked : checkOperands m ops = .ok ())
    (built : build m ops = some it) : assemble ⟨m.spelling, ops⟩ = .ok it :=
  (assemble_eq_ok_iff _ _ _).mpr ⟨m, read_spelling m, checked, built⟩

theorem byte_le (b : Byte) : b.toNat ≤ 0xFF := Nat.le_of_lt_succ b.isLt

theorem word_le (v : Word) : v.toNat ≤ 0xFFFF := Nat.le_of_lt_succ v.isLt

/-- The line of an operation stands for it, with every operand value (R46). -/
theorem assemble_line_op (i : Instr) : assemble (AsmItem.op i).line = .ok (.op i) := by
  cases i with
  | checksum b0 b1 =>
    exact assemble_spelling_ok ((checkCount_bytes_eq_ok_iff 2 _).mpr (by simp [byte_le])) (by simp [build])
  | encCmd v =>
    exact assemble_spelling_ok ((checkCount_values_eq_ok_iff 1 _).mpr (by simp [word_le])) (by simp [build])
  | encWord v =>
    exact assemble_spelling_ok ((checkCount_values_eq_ok_iff 1 _).mpr (by simp [word_le])) (by simp [build])
  | decWord r0 r1 r2 =>
    exact assemble_spelling_ok ((checkCount_bytes_eq_ok_iff 3 _).mpr (by simp [byte_le])) (by simp [build])

/-- The line of a pseudo-instruction that R48 allows stands for it. -/
theorem assemble_line_pseudo {p : Pseudo} (h : p.wellFormed = true) :
    assemble (AsmItem.pseudo p).line = .ok (.pseudo p) := by
  cases p with
  | verify r0 r1 r2 =>
    exact assemble_spelling_ok ((checkCount_bytes_eq_ok_iff 3 _).mpr (by simp [byte_le])) (by simp [build])
  | encFrame c ws =>
    refine assemble_spelling_ok ((checkOperands_encFrame_iff _).mpr (by simp [word_le])) ?_
    simp [build, Function.comp_def]
  | decFrame n bytes =>
    obtain ⟨positive, length⟩ : 1 ≤ n ∧ bytes.length = 3 * n := by simpa [Pseudo.wellFormed] using h
    refine assemble_spelling_ok ((checkOperands_decFrame_iff _).mpr ⟨n, _, rfl, positive, ?_, by simp [byte_le]⟩) ?_
    · rw [List.length_map, length]
    · simp [build, Function.comp_def]

end Sys2Proof.Machine

namespace Sys2Proof.Machine

/-! ## Texts: comments, blanks and separators -/

/-- A text keeps its reading when something is appended that is a comment from its first character on. -/
theorem stripComment_append_comment {comment : List Char} (isComment : stripComment comment = [])
    (noArrowhead : ∀ rest, comment ≠ '>' :: rest) (text : List Char) :
    stripComment (text ++ comment) = stripComment text := by
  induction text using stripComment.induct with
  | case1 => exact isComment
  | case2 => rfl
  | case3 => rfl
  | case4 c cs noSemicolon noArrow ih =>
    have stillNoArrow : ∀ rest, c = '=' → cs ++ comment = '>' :: rest → False := by
      intro rest equals
      cases cs with
      | nil => exact noArrowhead rest
      | cons d ds =>
        intro arrow
        exact noArrow ds equals (congrArg (· :: ds) (List.cons.inj arrow).1)
    rw [List.cons_append, stripComment, stripComment, ih]
    all_goals assumption

/-- A text without `;` and `=` has no comment. -/
theorem stripComment_eq_self {text : List Char} (h : ∀ c ∈ text, c ≠ ';' ∧ c ≠ '=') : stripComment text = text := by
  induction text with
  | nil => rfl
  | cons c cs ih =>
    obtain ⟨⟨noSemicolon, noEquals⟩, rest⟩ := List.forall_mem_cons.mp h
    rw [stripComment, ih rest]
    · exact noSemicolon
    · exact fun _ equals => absurd equals noEquals

theorem isBlank_iff (c : Char) : isBlank c = true ↔ c = ' ' ∨ c = '\t' ∨ c = '\r' := by
  simp [isBlank, or_assoc]

theorem ne_mark_of_isBlank {c : Char} (h : isBlank c = true) : (c ≠ ';' ∧ c ≠ '=') ∧ c ≠ ',' := by
  rcases (isBlank_iff c).mp h with rfl | rfl | rfl <;> decide

/-- The characters of mnemonics and numerals. -/
def isWordChar (c : Char) : Prop := c.isAlphanum = true ∨ c = '_'

theorem isBlank_of_isWordChar {c : Char} (h : isWordChar c) : isBlank c = false := by
  rw [Bool.eq_false_iff, Ne, isBlank_iff]
  rintro (rfl | rfl | rfl) <;> revert h <;> unfold isWordChar <;> decide

theorem ne_mark_of_isWordChar {c : Char} (h : isWordChar c) : (c ≠ ';' ∧ c ≠ '=') ∧ c ≠ ',' := by
  refine ⟨⟨?_, ?_⟩, ?_⟩ <;> rintro rfl <;> revert h <;> unfold isWordChar <;> decide

/-- A text that neither begins nor ends with a blank. -/
def Tight (t : List Char) : Prop := (∀ c ∈ t.head?, isBlank c = false) ∧ (∀ c ∈ t.getLast?, isBlank c = false)

theorem tight_of_forall {t : List Char} (h : ∀ c ∈ t, isBlank c = false) : Tight t :=
  ⟨fun c hc => h c (List.mem_of_head? hc), fun c hc => h c (List.mem_of_getLast? hc)⟩

theorem tight_append {a b : List Char} (ha : Tight a) (hb : Tight b) (a_ne : a ≠ []) (b_ne : b ≠ []) (mid : List Char) :
    Tight (a ++ mid ++ b) := by
  rw [Tight, List.append_assoc, List.head?_append_of_ne_nil _ a_ne, ← List.append_assoc,
    List.getLast?_append_of_ne_nil _ b_ne]
  exact ⟨ha.1, hb.2⟩

theorem dropWhile_isBlank_append {blanks t : List Char} (hb : ∀ c ∈ blanks, isBlank c = true)
    (ht : ∀ c ∈ t.head?, isBlank c = false) : (blanks ++ t).dropWhile isBlank = t := by
  rw [List.dropWhile_append_of_pos hb]
  cases t with
  | nil => rfl
  | cons c cs => exact List.dropWhile_cons_of_neg (by simpa using ht c)

/-- Trimming takes the blanks around a text away, and nothing of it. -/
theorem trimBlanks_padded {before t after : List Char} (hb : ∀ c ∈ before, isBlank c = true) (ht : Tight t)
    (ha : ∀ c ∈ after, isBlank c = true) : trimBlanks (before ++ t ++ after) = t := by
  have front : (before ++ t ++ after).dropWhile isBlank = t ++ if t = [] then [] else after := by
    cases t with
    | nil => simpa using fun c hc => hc.elim (hb c) (ha c)
    | cons c cs =>
      rw [List.append_assoc, if_neg (List.cons_ne_nil c cs)]
      exact dropWhile_isBlank_append hb (by simpa using ht.1 c)
  have back : ∀ c ∈ (if t = [] then [] else after).reverse, isBlank c = true := by
    split_ifs
    · simp
    · simpa using ha
  rw [trimBlanks, front, List.reverse_append, dropWhile_isBlank_append back, List.reverse_reverse]
  rw [List.head?_reverse]
  exact ht.2

theorem trimBlanks_append_tight {before t : List Char} (hb : ∀ c ∈ before, isBlank c = true) (ht : Tight t) :
    trimBlanks (before ++ t) = t := by
  simpa using trimBlanks_padded hb ht (after := []) (by simp)

theorem trimBlanks_tight_append {t after : List Char} (ht : Tight t) (ha : ∀ c ∈ after, isBlank c = true) :
    trimBlanks (t ++ after) = t :=
  trimBlanks_padded (before := []) (by simp) ht ha

theorem trimBlanks_of_tight {t : List Char} (ht : Tight t) : trimBlanks t = t := by
  simpa using trimBlanks_append_tight (before := []) (by simp) ht

theorem trimBlanks_of_isBlank {t : List Char} (h : ∀ c ∈ t, isBlank c = true) : trimBlanks t = [] :=
  trimBlanks_tight_append (t := []) (tight_of_forall (by simp)) h

/-- The assembler's cutting of texts is the library's. -/
theorem splitAtEach_eq_splitOn (sep : Char) (t : List Char) : splitAtEach sep t = t.splitOn sep := by
  induction t with
  | nil => rfl
  | cons c cs ih =>
    obtain ⟨first, rest, pieces⟩ := List.exists_cons_of_ne_nil (List.splitOn_ne_nil sep cs)
    rw [splitAtEach, ih, List.splitOn_cons_eq_if_modifyHead, pieces]
    simp

/-! ## Operand rows -/

/-- Blanks after a comma belong to the operand after it. -/
theorem intercalate_padded (pad t : List Char) (ts : List (List Char)) :
    List.intercalate (',' :: pad) (t :: ts) = List.intercalate [','] (t :: ts.map (pad ++ ·)) := by
  induction ts generalizing t with
  | nil => rfl
  | cons u us ih =>
    have inFront (zs : List (List Char)) : List.intercalate [','] ((pad ++ u) :: zs) =
        pad ++ List.intercalate [','] (u :: zs) := by cases zs <;> simp
    rw [List.intercalate_cons_cons, ih, List.map_cons, List.intercalate_cons_cons, inFront]
    simp

/-- Cut at the commas and trimmed, a row of operands gives the operands back. -/
theorem trimmed_pieces {pad : List Char} (hpad : ∀ c ∈ pad, isBlank c = true) {ts : List (List Char)}
    (some_operand : ts ≠ []) (hts : ∀ t ∈ ts, ∀ c ∈ t, isWordChar c) :
    (splitAtEach ',' (List.intercalate (',' :: pad) ts)).map trimBlanks = ts := by
  obtain ⟨t, ts, rfl⟩ := List.exists_cons_of_ne_nil some_operand
  have tight : ∀ u ∈ t :: ts, Tight u := fun u hu => tight_of_forall fun c hc => isBlank_of_isWordChar (hts u hu c hc)
  have noComma : ∀ u ∈ t :: ts, ',' ∉ u := fun u hu hc => (ne_mark_of_isWordChar (hts u hu _ hc)).2 rfl
  have noCommaPadded : ∀ p ∈ t :: ts.map (pad ++ ·), ',' ∉ p := by
    have noCommaPad : ',' ∉ pad := fun hc => (ne_mark_of_isBlank (hpad _ hc)).2 rfl
    simpa [noCommaPad] using noComma
  rw [intercalate_padded, splitAtEach_eq_splitOn, List.splitOn_intercalate _ noCommaPadded (List.cons_ne_nil _ _),
    List.map_cons, trimBlanks_of_tight (tight t List.mem_cons_self), List.map_map]
  refine congrArg (t :: ·) ((List.map_congr_left fun u hu => ?_).trans (List.map_id ts))
  exact trimBlanks_append_tight hpad (tight u (List.mem_cons_of_mem _ hu))

theorem mem_intercalate {c : Char} {sep : List Char} {ts : List (List Char)} (h : c ∈ List.intercalate sep ts) :
    c ∈ sep ∨ ∃ t ∈ ts, c ∈ t := by
  induction ts with
  | nil => simp at h
  | cons t ts ih =>
    cases ts with
    | nil => exact .inr ⟨t, List.mem_cons_self, by simpa using h⟩
    | cons u us =>
      rw [List.intercalate_cons_cons, List.mem_append, List.mem_append] at h
      rcases h with (inFirst | inSep) | inRest
      · exact .inr ⟨t, List.mem_cons_self, inFirst⟩
      · exact .inl inSep
      · exact (ih inRest).imp_right fun ⟨v, hv, hc⟩ => ⟨v, List.mem_cons_of_mem _ hv, hc⟩

/-- A row begins with its first operand and ends with its last. -/
theorem tight_intercalate {sep : List Char} {ts : List (List Char)} (some_operand : ts ≠ [])
    (hts : ∀ t ∈ ts, t ≠ [] ∧ Tight t) : List.intercalate sep ts ≠ [] ∧ Tight (List.intercalate sep ts) := by
  induction ts with
  | nil => exact absurd rfl some_operand
  | cons t ts ih =>
    obtain ⟨⟨t_ne, tight⟩, rest⟩ := List.forall_mem_cons.mp hts
    cases ts with
    | nil => simpa using ⟨t_ne, tight⟩
    | cons u us =>
      obtain ⟨rest_ne, restTight⟩ := ih (List.cons_ne_nil u us) rest
      rw [List.intercalate_cons_cons]
      exact ⟨by simp [t_ne], tight_append tight restTight t_ne rest_ne sep⟩

/-- The operands of a row are read when each of them is a numeral. -/
theorem numerals_eq_ok_iff (ps : List (List Char)) (ns : List Nat) :
    numerals ps = .ok ns ↔ (ps.map trimBlanks).map numeral = ns.map some := by
  induction ps generalizing ns with
  | nil => cases ns <;> simp [numerals]
  | cons p ps ih =>
    rw [numerals, List.map_cons, List.map_cons]
    cases numeral (trimBlanks p) with
    | none => cases ns <;> simp
    | some n =>
      cases ns with
      | nil => cases numerals ps <;> simp
      | cons m ns =>
        rw [List.map_cons, List.cons.injEq, Option.some_inj, ← ih ns]
        cases numerals ps <;> simp

/-- One operand that is no numeral refuses the row, by that name and no other. -/
theorem numerals_eq_error_iff (ps : List (List Char)) :
    numerals ps = .error .badNumeral ↔ ∃ t ∈ ps.map trimBlanks, numeral t = none := by
  induction ps with
  | nil => simp [numerals]
  | cons p ps ih =>
    rw [numerals, List.map_cons, List.exists_mem_cons_iff, ← ih]
    cases numeral (trimBlanks p) with
    | none => simp
    | some n => cases numerals ps <;> simp

/-! ## Reading a line -/

theorem readLine_blank {text : List Char} (body : trimBlanks (stripComment text) = []) : readLine text = .ok none := by
  simp [readLine, body]

/-- A line's body is a word, and after a blank the operands, cut at the commas. -/
theorem readLine_word {text word after : List Char} (body : trimBlanks (stripComment text) = word ++ after)
    (word_ne : word ≠ []) (hword : ∀ c ∈ word, isBlank c = false) (hafter : ∀ c ∈ after.head?, isBlank c = true) :
    readLine text = if trimBlanks after = [] then .ok (some ⟨word, []⟩)
      else (numerals (splitAtEach ',' (trimBlanks after))).map (fun ns => some ⟨word, ns⟩) := by
  have taken : (word ++ after).takeWhile (fun c => !isBlank c) = word := by
    rw [List.takeWhile_append_of_pos (by simpa using hword)]
    cases after with
    | nil => simp
    | cons c cs => rw [List.takeWhile_cons_of_neg (by simpa using hafter c), List.append_nil]
  have dropped : (word ++ after).dropWhile (fun c => !isBlank c) = after := by
    rw [List.dropWhile_append_of_pos (by simpa using hword)]
    cases after with
    | nil => rfl
    | cons c cs => exact List.dropWhile_cons_of_neg (by simpa using hafter c)
  simp only [readLine, body, taken, dropped, List.isEmpty_iff, List.append_eq_nil_iff, word_ne, false_and, if_false]
  cases numerals (splitAtEach ',' (trimBlanks after)) <;> rfl

section LineOfText

variable {word gap pad : List Char} {ts : List (List Char)}
  (word_ne : word ≠ []) (hword : ∀ c ∈ word, isWordChar c)
  (hgap : ∀ c ∈ gap, isBlank c = true) (hpad : ∀ c ∈ pad, isBlank c = true)

include word_ne hword hpad in
/-- A mnemonic alone, blanks after it or not. -/
theorem readLine_word_pad : readLine (word ++ pad) = .ok (some ⟨word, []⟩) := by
  have plain : ∀ c ∈ word ++ pad, c ≠ ';' ∧ c ≠ '=' := by
    intro c hc
    rcases List.mem_append.mp hc with inWord | inPad
    · exact (ne_mark_of_isWordChar (hword c inWord)).1
    · exact (ne_mark_of_isBlank (hpad c inPad)).1
  have nonBlank := fun c hc => isBlank_of_isWordChar (hword c hc)
  have body : trimBlanks (stripComment (word ++ pad)) = word ++ [] := by
    rw [stripComment_eq_self plain, trimBlanks_tight_append (tight_of_forall nonBlank) hpad, List.append_nil]
  rw [readLine_word body word_ne nonBlank (by simp)]
  rfl

include word_ne hword hgap hpad in
/-- A mnemonic, blanks and a row of operands: the operands' numerals decide. -/
theorem readLine_word_row (gap_ne : gap ≠ []) (some_operand : ts ≠ [])
    (hts : ∀ t ∈ ts, t ≠ [] ∧ ∀ c ∈ t, isWordChar c) :
    ∃ ps, ps.map trimBlanks = ts ∧ readLine (word ++ gap ++ List.intercalate (',' :: pad) ts) =
      (numerals ps).map (fun ns => some ⟨word, ns⟩) := by
  have nonBlank := fun c hc => isBlank_of_isWordChar (hword c hc)
  obtain ⟨row_ne, rowTight⟩ := tight_intercalate (sep := ',' :: pad) some_operand
    fun t ht => ⟨(hts t ht).1, tight_of_forall fun c hc => isBlank_of_isWordChar ((hts t ht).2 c hc)⟩
  have pieces := trimmed_pieces hpad some_operand fun t ht => (hts t ht).2
  have plain : ∀ c ∈ word ++ gap ++ List.intercalate (',' :: pad) ts, c ≠ ';' ∧ c ≠ '=' := by
    intro c hc
    rw [List.mem_append, List.mem_append] at hc
    rcases hc with (inWord | inGap) | inRow
    · exact (ne_mark_of_isWordChar (hword c inWord)).1
    · exact (ne_mark_of_isBlank (hgap c inGap)).1
    · rcases mem_intercalate inRow with inSep | ⟨t, ht, inOperand⟩
      · rcases List.mem_cons.mp inSep with rfl | inPad
        · decide
        · exact (ne_mark_of_isBlank (hpad c inPad)).1
      · exact (ne_mark_of_isWordChar ((hts t ht).2 c inOperand)).1
  generalize List.intercalate (',' :: pad) ts = row at *
  have body : trimBlanks (stripComment (word ++ gap ++ row)) = word ++ (gap ++ row) := by
    rw [stripComment_eq_self plain,
      trimBlanks_of_tight (tight_append (tight_of_forall nonBlank) rowTight word_ne row_ne gap), List.append_assoc]
  have blankAfterWord : ∀ c ∈ (gap ++ row).head?, isBlank c = true := by
    rw [List.head?_append_of_ne_nil _ gap_ne]
    exact fun c hc => hgap c (List.mem_of_head? hc)
  refine ⟨splitAtEach ',' row, pieces, ?_⟩
  rw [readLine_word body word_ne nonBlank blankAfterWord, trimBlanks_append_tight hgap rowTight, if_neg row_ne]

end LineOfText

/-! ## Texts of several lines -/

/-- Lines are assembled in order, and the first bad one refuses the text. -/
theorem assembleLines_append (xs ys : List (List Char)) : assembleLines (xs ++ ys) =
    (assembleLines xs).bind fun items => (assembleLines ys).map (items ++ ·) := by
  induction xs with
  | nil => cases h : assembleLines ys <;> simp [assembleLines, Except.bind, Except.map, h]
  | cons t ts ih =>
    rw [List.cons_append, assembleLines, assembleLines, ih]
    cases readLine t with
    | error e => rfl
    | ok line =>
      cases line with
      | none => rfl
      | some l =>
        dsimp only
        cases assemble l with
        | error e => rfl
        | ok item => cases assembleLines ts <;> cases assembleLines ys <;> rfl

/-- A text of one line. -/
theorem assembleText_line {text : List Char} (h : '\n' ∉ text) : assembleText text = assembleLines [text] := by
  rw [assembleText, splitAtEach_eq_splitOn, List.splitOn_eq_singleton h]

/-- A text of two parts with a line feed between them. -/
theorem assembleText_append (a b : List Char) : assembleText (a ++ '\n' :: b) =
    (assembleText a).bind fun items => (assembleText b).map (items ++ ·) := by
  simp only [assembleText, splitAtEach_eq_splitOn, List.splitOn_append_cons_self, assembleLines_append]

/-- Settles O43: lines by their checks, texts by their cutting at line feeds, blanks and commas. -/
theorem assemblerReadsItsLines : Obligations.AssemblerReadsItsLines := by
  refine ⟨assemble_line_op, fun p => assemble_line_pseudo, fun l it accepted => ?_, fun ops => ?_, fun b0 b1 b2 v => ?_,
    fun cs ds ops => assemble_congr_toUpper ops, fun text comment => ?_,
    fun word gap pad ts word_ne hword gap_ne hblank some_operand hts => ?_, fun text oneLine => ?_, fun a b => ?_, ?_⟩
  · rw [line_of_accepted accepted]
    exact ⟨rfl, rfl⟩
  · exact ⟨(accepted_iff_checked .checksum ops).trans (checkCount_bytes_eq_ok_iff 2 ops),
      (accepted_iff_checked .encCmd ops).trans (checkCount_values_eq_ok_iff 1 ops),
      (accepted_iff_checked .encWord ops).trans (checkCount_values_eq_ok_iff 1 ops),
      (accepted_iff_checked .decWord ops).trans (checkCount_bytes_eq_ok_iff 3 ops),
      (accepted_iff_checked .verify ops).trans (checkCount_bytes_eq_ok_iff 3 ops),
      (accepted_iff_checked .encFrame ops).trans (checkOperands_encFrame_iff ops),
      (accepted_iff_checked .decFrame ops).trans (checkOperands_decFrame_iff ops)⟩
  · exact ⟨rfl, rfl, rfl, rfl⟩
  · have semicolon := stripComment_append_comment (comment := ';' :: comment) rfl (by simp) text
    have arrow := stripComment_append_comment (comment := '=' :: '>' :: comment) rfl (by simp) text
    simp only [readLine, semicolon, arrow, and_self]
  · obtain ⟨hgap, hpad⟩ := List.forall_mem_append.mp hblank
    obtain ⟨ps, pieces, read⟩ := readLine_word_row word_ne hword hgap hpad gap_ne some_operand
      fun t ht => ⟨(hts t ht).1, fun c hc => .inl ((hts t ht).2 c hc)⟩
    refine ⟨fun ns hns => ?_, fun bad => ?_, readLine_word_pad word_ne hword hpad, readLine_blank ?_⟩
    · rw [read, (numerals_eq_ok_iff ps ns).mpr (pieces ▸ hns)]
      rfl
    · rw [read, (numerals_eq_error_iff ps).mpr (pieces ▸ bad)]
      rfl
    · rw [stripComment_eq_self fun c hc => (ne_mark_of_isBlank (hpad c hc)).1,
        trimBlanks_of_isBlank hpad]
  · rw [assembleText_line oneLine, assembleLines]
    cases readLine text with
    | error e => rfl
    | ok line =>
      cases line with
      | none => rfl
      | some l =>
        dsimp only
        cases assemble l <;> rfl
  · rw [assembleText_append]
    cases assembleText a <;> rfl
  · decide

end Sys2Proof.Machine

namespace Sys2Proof.Machine

/-! ## Bit patterns as sets of positions

A pattern is the XOR of its single bits, so a function that distributes over XOR is decided by its values on single
bits. Every law of the checksum below (R53, R54, R57) is read off those values. -/

/-- The positions of a pattern's set bits. -/
def setBits {n : Nat} (v : BitVec n) : Finset Nat := (Finset.range n).filter (fun i => v.getLsbD i = true)

/-- The XOR of the values of `f` at the positions of `s`. -/
def xorOver {n : Nat} (s : Finset Nat) (f : Nat → BitVec n) : BitVec n := s.fold (fun a b => a ^^^ b) 0#n f

/-- The pattern whose set bits are the positions of `s` below `n`. -/
def patternOf (n : Nat) (s : Finset Nat) : BitVec n := xorOver s (fun k => 1#n <<< k)

@[simp] theorem mem_setBits {n : Nat} (v : BitVec n) (i : Nat) : i ∈ setBits v ↔ v.getLsbD i = true := by
  rw [setBits, Finset.mem_filter, Finset.mem_range, and_iff_right_iff_imp]
  exact BitVec.lt_of_getLsbD

/-- The weight of R57 is the number of set positions. -/
theorem weight_eq_card {n : Nat} (e : BitVec n) : Claims.weight e = (setBits e).card := by
  have filtered : (setBits e).val = (List.range n).filter (fun i => e.getLsbD i = true) := rfl
  rw [Finset.card, filtered, Multiset.coe_card, Claims.weight, List.countP_eq_length_filter]
  simp

theorem setBits_nonempty {n : Nat} {e : BitVec n} (h : e ≠ 0#n) : (setBits e).Nonempty := by
  by_contra none
  refine h (BitVec.eq_of_getLsbD_eq fun i _ => ?_)
  rw [Finset.not_nonempty_iff_eq_empty, Finset.eq_empty_iff_forall_notMem] at none
  simpa using none i

@[simp] theorem xorOver_empty {n : Nat} (f : Nat → BitVec n) : xorOver ∅ f = 0#n := Finset.fold_empty

theorem xorOver_insert {n : Nat} {s : Finset Nat} {k : Nat} (f : Nat → BitVec n) (h : k ∉ s) :
    xorOver (insert k s) f = f k ^^^ xorOver s f := Finset.fold_insert h

theorem xorOver_singleton {n : Nat} (k : Nat) (f : Nat → BitVec n) : xorOver {k} f = f k := by
  rw [xorOver, Finset.fold_singleton, BitVec.xor_zero]

/-- One more position is one more set bit. -/
theorem getLsbD_patternOf (n : Nat) (s : Finset Nat) (i : Nat) :
    (patternOf n s).getLsbD i = decide (i < n ∧ i ∈ s) := by
  induction s using Finset.induction with
  | empty => simp [patternOf]
  | insert k s new ih =>
    have single : (1#n <<< k).getLsbD i = (decide (k < n) && decide (k = i)) := BitVec.getLsbD_twoPow k i
    rw [patternOf, xorOver_insert _ new, BitVec.getLsbD_xor, ← patternOf, ih, single]
    rcases eq_or_ne k i with rfl | other
    · simp [new]
    · simp [other, other.symm]

theorem patternOf_setBits {n : Nat} (v : BitVec n) : patternOf n (setBits v) = v := by
  refine BitVec.eq_of_getLsbD_eq fun i hi => ?_
  simp only [getLsbD_patternOf, mem_setBits, hi, true_and, Bool.decide_eq_true]

theorem setBits_patternOf {n : Nat} {s : Finset Nat} (h : s ⊆ Finset.range n) : setBits (patternOf n s) = s := by
  ext i
  have inRange : i ∈ s → i < n := fun hi => Finset.mem_range.mp (h hi)
  simpa [getLsbD_patternOf] using inRange

/-- Patterns are sets of positions. -/
def patternEquiv {n : Nat} {F : Finset (Finset Nat)} (inRange : ∀ s ∈ F, s ⊆ Finset.range n) :
    { e : BitVec n // setBits e ∈ F } ≃ F where
  toFun e := ⟨setBits e.1, e.2⟩
  invFun s := ⟨patternOf n s.1, (setBits_patternOf (inRange s.1 s.2)).symm ▸ s.2⟩
  left_inv e := Subtype.ext (patternOf_setBits e.1)
  right_inv s := Subtype.ext (setBits_patternOf (inRange s.1 s.2))

theorem xorOver_xor {n : Nat} (s : Finset Nat) (f g : Nat → BitVec n) :
    xorOver s (fun k => f k ^^^ g k) = xorOver s f ^^^ xorOver s g := by
  conv_lhs => rw [xorOver, ← BitVec.xor_self (x := 0#n)]
  rw [Finset.fold_op_distrib, xorOver, xorOver]

/-- A function that distributes over XOR. -/
def XorHom {m n : Nat} (f : BitVec m → BitVec n) : Prop := ∀ a b, f (a ^^^ b) = f a ^^^ f b

theorem XorHom.map_zero {m n : Nat} {f : BitVec m → BitVec n} (hf : XorHom f) : f 0#m = 0#n := by
  have twice := hf 0#m 0#m
  rwa [BitVec.xor_self, BitVec.xor_self] at twice

theorem XorHom.map_xorOver {m n : Nat} {f : BitVec m → BitVec n} (hf : XorHom f) (s : Finset Nat)
    (g : Nat → BitVec m) : f (xorOver s g) = xorOver s (fun k => f (g k)) := by
  induction s using Finset.induction with
  | empty => simpa using hf.map_zero
  | insert k s new ih => rw [xorOver_insert g new, xorOver_insert _ new, hf, ih]

/-- The value is the XOR of the values on the single bits. -/
theorem XorHom.eq_xorOver {m n : Nat} {f : BitVec m → BitVec n} (hf : XorHom f) (v : BitVec m) :
    f v = xorOver (setBits v) (fun k => f (1#m <<< k)) := by
  conv_lhs => rw [← patternOf_setBits v, patternOf, hf.map_xorOver]

theorem xorOver_congr {n : Nat} {s : Finset Nat} {f g : Nat → BitVec n} (h : ∀ k ∈ s, f k = g k) :
    xorOver s f = xorOver s g := Finset.fold_congr h

theorem lt_of_mem_setBits {n : Nat} {v : BitVec n} {i : Nat} (h : i ∈ setBits v) : i < n :=
  BitVec.lt_of_getLsbD ((mem_setBits v i).mp h)

/-- Single bits with known values give the value of every pattern. -/
theorem XorHom.eq_xorOver_of_singleBits {m n : Nat} {f : BitVec m → BitVec n} (hf : XorHom f) {g : Nat → BitVec n}
    (single : ∀ k < m, f (1#m <<< k) = g k) (v : BitVec m) : f v = xorOver (setBits v) g :=
  (hf.eq_xorOver v).trans (xorOver_congr fun k hk => single k (lt_of_mem_setBits hk))

theorem xor_cancel_left {n : Nat} (a b : BitVec n) : a ^^^ (a ^^^ b) = b := by
  rw [← BitVec.xor_assoc, BitVec.xor_self, BitVec.zero_xor]

theorem xor_cancel_right {n : Nat} (a b : BitVec n) : a ^^^ b ^^^ b = a := by
  rw [BitVec.xor_assoc, BitVec.xor_self, BitVec.xor_zero]

theorem xor_eq_left_iff {n : Nat} (a b : BitVec n) : a ^^^ b = a ↔ b = 0#n := by
  rw [← BitVec.xor_right_inj (x := b) a, BitVec.xor_zero]

/-- A loop that XORs in the values of the positions where `p` holds. -/
theorem foldl_range_xor {n : Nat} (p : Nat → Bool) (g : Nat → BitVec n) (c : BitVec n) (m : Nat) :
    (List.range m).foldl (fun c k => if p k then c ^^^ g k else c) c =
      c ^^^ xorOver ((Finset.range m).filter (fun k => p k = true)) g := by
  induction m with
  | zero => simp
  | succ m ih =>
    rw [List.range_succ, List.foldl_append, ih, Finset.range_add_one, Finset.filter_insert]
    by_cases here : p m = true
    · rw [if_pos here, xorOver_insert _ (by simp), List.foldl_cons, List.foldl_nil, if_pos here, BitVec.xor_assoc,
        BitVec.xor_comm (g m)]
    · rw [if_neg here, List.foldl_cons, List.foldl_nil, if_neg here]

/-! ## The checksum's linear part -/

/-- The checksum of a word in a register that begins at zero. -/
def crcLinear (v : Word) : Byte := crcShifts 8 (crcShifts 8 (hiByte v) ^^^ loByte v)

theorem crcShifts_xorHom (n : Nat) : XorHom (crcShifts n) := crcShifts_xor n

theorem crcLinear_xorHom : XorHom crcLinear := by
  intro v w
  simp only [crcLinear, hiByte_xor, loByte_xor, crcShifts_xor]
  ac_rfl

/-- The initial value 0xFF is an XOR into the first byte (R52). -/
theorem crc8Word_eq_crcLinear (v : Word) : crc8Word v = crcLinear (v ^^^ 0xFF00#16) := by
  have hi : hiByte 0xFF00#16 = crcInit := by decide
  have lo : loByte 0xFF00#16 = 0#8 := by decide
  rw [crcLinear, hiByte_xor, loByte_xor, hi, lo, BitVec.xor_zero, BitVec.xor_comm (hiByte v)]
  rfl

/-- The checksum is its linear part, moved by the checksum of the zero word (R53). -/
theorem crc8Word_eq_xor (v : Word) : crc8Word v = crcLinear v ^^^ 0x81#8 := by
  have zero : crcLinear 0xFF00#16 = 0x81#8 := by decide +kernel
  rw [crc8Word_eq_crcLinear, crcLinear_xorHom, zero]

theorem crc8Word_xor_eq (v e : Word) : crc8Word (v ^^^ e) = crc8Word v ^^^ crcLinear e := by
  rw [crc8Word_eq_xor, crc8Word_eq_xor, crcLinear_xorHom]
  ac_rfl

/-- The written-out columns of R53 are the linear part on the single bits. -/
theorem crcLinear_singleBit : ∀ k < 16, crcLinear (1#16 <<< k) = Claims.crcColumns.getD k 0x00#8 := by decide +kernel

/-- Settles O46: the linear part of a word is the XOR of the columns of its set bits. -/
theorem crcIsAffine : Obligations.CrcIsAffine := by
  have zero : crc8Word 0x0000#16 = 0x81#8 := by decide +kernel
  refine ⟨fun v w => ?_, zero, fun k c hk => ?_, fun v => ?_⟩
  · rw [crc8Word_xor_eq, crc8Word_eq_xor w, zero, ← BitVec.xor_assoc, xor_cancel_right]
  · obtain ⟨inRange, column⟩ := List.getElem?_eq_some_iff.mp hk
    rw [crc8Word_eq_xor, xor_cancel_right, crcLinear_singleBit k inRange, ← List.getElem_eq_getD (h := inRange), column]
  · rw [foldl_range_xor, crc8Word_eq_xor, crcLinear_xorHom.eq_xorOver_of_singleBits crcLinear_singleBit,
      BitVec.xor_comm]
    rfl

/-! ## The loop on numbers, the table and the long division -/

/-- One pass on bytes is one pass on numbers (R50). -/
theorem toNat_crcShift (c : Byte) : (crcShift c).toNat = Claims.shiftNat c.toNat := by
  have doubled : (c <<< 1).toNat = 2 * c.toNat % 256 := by
    rw [BitVec.toNat_shiftLeft, Nat.shiftLeft_eq, Nat.mul_comm, pow_one]
  have top : c.msb = decide (128 ≤ c.toNat) := BitVec.msb_eq_decide c
  simp only [crcShift, Claims.shiftNat, top, decide_eq_true_eq]
  split_ifs
  · rw [BitVec.toNat_xor, doubled]
    rfl
  · exact doubled

theorem toNat_crcShifts (n : Nat) (c : Byte) : (crcShifts n c).toNat = Claims.shiftNat^[n] c.toNat := by
  induction n generalizing c with
  | zero => rfl
  | succ n ih => rw [crcShifts, ih, toNat_crcShift, Function.iterate_succ_apply]

theorem toNat_crc8Byte (c b : Byte) : (crc8Byte c b).toNat = Claims.eightShifts (c.toNat ^^^ b.toNat) := by
  rw [crc8Byte, toNat_crcShifts, BitVec.toNat_xor, Claims.eightShifts]

theorem toNat_crc8 (b0 b1 : Byte) : (crc8 b0 b1).toNat =
    Claims.eightShifts (Claims.eightShifts (0xFF ^^^ b0.toNat) ^^^ b1.toNat) := by
  rw [crc8, toNat_crc8Byte, toNat_crc8Byte]
  rfl

/-- Settles O44: pass by pass, then byte by byte. -/
theorem crcIsTheShiftLoop : Obligations.CrcIsTheShiftLoop := by
  refine ⟨toNat_crc8Byte, toNat_crc8, fun v => ?_⟩
  have bytes := toNat_eq_hiByte_loByte v
  have low := (loByte v).isLt
  rw [crc8Word, toNat_crc8, show v.toNat / 256 = (hiByte v).toNat by omega,
    show v.toNat % 256 = (loByte v).toNat by omega]

/-- The written-out table, entry by entry (R54). -/
theorem crcTable_eq_map : crcTable = (List.range 256).map (fun i => crcShifts 8 (BitVec.ofNat 8 i)) := by decide +kernel

theorem crcEntry_eq_crcShifts (i : Byte) : crcEntry i = crcShifts 8 i := by
  have entry : (List.range 256)[i.toNat]? = some i.toNat := List.getElem?_range i.isLt
  rw [crcEntry, crcTable_eq_map, List.getD_eq_getElem?_getD, List.getElem?_map, entry, Option.map_some,
    Option.getD_some, BitVec.ofNat_toNat, BitVec.setWidth_eq]

theorem crc8_eq_crcEntry (b0 b1 : Byte) : crc8 b0 b1 = crcEntry (crcEntry (crcInit ^^^ b0) ^^^ b1) := by
  rw [crcEntry_eq_crcShifts, crcEntry_eq_crcShifts, crc8, crc8Byte, crc8Byte]

/-- Clearing a leading bit, or leaving it clear, distributes over XOR. -/
theorem ite_xor_distrib {n : Nat} (p q : Bool) (a b g : BitVec n) :
    (if p ^^ q then a ^^^ b ^^^ g else a ^^^ b) = (if p then a ^^^ g else a) ^^^ (if q then b ^^^ g else b) := by
  cases p <;> cases q <;> simp only [Bool.xor_self, Bool.xor_false, Bool.xor_true, Bool.not_false, if_true,
    Bool.false_eq_true, if_false]
  · exact BitVec.xor_assoc a b g
  · ac_rfl
  · rw [← BitVec.xor_assoc, BitVec.xor_assoc a, BitVec.xor_comm g, ← BitVec.xor_assoc, xor_cancel_right]

theorem crcDivide_xorHom (n : Nat) : XorHom (crcDivide n) := by
  intro a b
  induction n generalizing a b with
  | zero => rfl
  | succ n ih => rw [crcDivide, crcDivide, crcDivide, BitVec.getLsbD_xor, ite_xor_distrib, ih]

/-- The long division of a word's polynomial times `x^8` (R52). -/
def divideWord (v : Word) : Byte := (crcDivide 16 (v ++ 0x00#8)).extractLsb' 0 8

theorem divideWord_xorHom : XorHom divideWord := by
  intro v w
  have appended : (v ^^^ w) ++ 0x00#8 = (v ++ 0x00#8) ^^^ (w ++ 0x00#8) := by
    simpa using (BitVec.xor_append (x₁ := v) (x₂ := w) (y₁ := 0x00#8) (y₂ := 0x00#8)).symm
  rw [divideWord, appended, crcDivide_xorHom, BitVec.extractLsb'_xor]
  rfl

/-- Loop and long division agree on every word because they agree on the single bits. -/
theorem divideWord_eq_crcLinear (v : Word) : divideWord v = crcLinear v := by
  have singleBit : ∀ k < 16, divideWord (1#16 <<< k) = crcLinear (1#16 <<< k) := by decide +kernel
  rw [divideWord_xorHom.eq_xorOver_of_singleBits singleBit, crcLinear_xorHom.eq_xorOver]

/-- Settles O47: the table is checked entry by entry, the division on the single bits. -/
theorem loopTableAndClosedFormAgree : Obligations.LoopTableAndClosedFormAgree := by
  refine ⟨fun i => ?_, fun b0 b1 => (crc8_eq_crcEntry b0 b1).symm, fun v => ?_, crc8_eq_crcEntry⟩
  · rw [crcEntry_eq_crcShifts, crc8Byte, BitVec.zero_xor]
  · rw [crc8Word_eq_crcLinear, ← divideWord_eq_crcLinear]
    rfl

end Sys2Proof.Machine

namespace Sys2Proof.Machine

open Polynomial (X)

/-! ## Bytes and words as polynomials over GF(2)

Modulo `G(x)` one pass of the register is a multiplication by `x`, so the register ends at the remainder of R52. -/

/-- Bit `i` is the coefficient of `x^i` (R52). -/
noncomputable def bitPoly {n : Nat} (v : BitVec n) : Polynomial (ZMod 2) := ∑ i ∈ setBits v, X ^ i

/-- `G(x)` (R51). -/
noncomputable def generatorPoly : Polynomial (ZMod 2) := X ^ 8 + X ^ 5 + X ^ 4 + 1

theorem coeff_bitPoly {n : Nat} (v : BitVec n) (i : Nat) : (bitPoly v).coeff i = if v.getLsbD i then 1 else 0 := by
  simp [bitPoly, Polynomial.coeff_X_pow]

theorem spells_bitPoly {n : Nat} (v : BitVec n) : Claims.spells v (bitPoly v) := coeff_bitPoly v

/-- XOR adds coefficients modulo 2. -/
theorem bitPoly_xor {n : Nat} (v w : BitVec n) : bitPoly (v ^^^ w) = bitPoly v + bitPoly w := by
  ext i
  rw [Polynomial.coeff_add, coeff_bitPoly, coeff_bitPoly, coeff_bitPoly, BitVec.getLsbD_xor]
  cases v.getLsbD i <;> cases w.getLsbD i <;> decide

theorem bitPoly_degree_lt {n : Nat} (v : BitVec n) : (bitPoly v).degree < n := by
  refine (Polynomial.degree_lt_iff_coeff_zero _ n).mpr fun i hi => ?_
  rw [coeff_bitPoly, v.getLsbD_of_ge i hi]
  rfl

/-- The 9-bit form of the generator (R51). -/
theorem bitPoly_0x131 : bitPoly 0x131#9 = generatorPoly := by
  have bits : setBits 0x131#9 = {8, 5, 4, 0} := by decide
  simp [bitPoly, generatorPoly, bits, add_assoc]

/-- The 8-bit form leaves `x^8` out (R5). -/
theorem bitPoly_crcGenerator : bitPoly crcGenerator + X ^ 8 = generatorPoly := by
  have bits : setBits crcGenerator = {5, 4, 0} := by decide
  have terms : bitPoly crcGenerator = X ^ 5 + (X ^ 4 + 1) := by simp [bitPoly, bits]
  rw [terms, generatorPoly]
  ring

theorem generatorPoly_monic : generatorPoly.Monic := by
  unfold generatorPoly
  monicity!

theorem generatorPoly_degree : generatorPoly.degree = 8 := by
  unfold generatorPoly
  compute_degree!

/-- A shift multiplies by `x`; the bit shifted out is the coefficient of `x^8`. -/
theorem X_mul_bitPoly (c : Byte) : X * bitPoly c = bitPoly (c <<< 1) + if c.msb then X ^ 8 else 0 := by
  have top : c.msb = c.getLsbD 7 := BitVec.msb_eq_getLsbD_last c
  ext i
  cases i with
  | zero => split_ifs <;> simp [coeff_bitPoly]
  | succ i =>
    rw [Polynomial.coeff_X_mul, Polynomial.coeff_add, coeff_bitPoly, coeff_bitPoly, BitVec.getLsbD_shiftLeft,
      apply_ite (fun p : Polynomial (ZMod 2) => p.coeff (i + 1)), Polynomial.coeff_X_pow, Polynomial.coeff_zero, top]
    rcases lt_trichotomy i 7 with low | rfl | high
    · simp [show i + 1 < 8 by omega, show i ≠ 7 by omega]
    · simp
    · simp [c.getLsbD_of_ge i (by omega), show ¬ i + 1 < 8 by omega, show i ≠ 7 by omega]

/-- One pass multiplies by `x` modulo `G(x)`. -/
theorem mk_bitPoly_crcShift (c : Byte) : AdjoinRoot.mk generatorPoly (bitPoly (crcShift c)) =
    AdjoinRoot.mk generatorPoly X * AdjoinRoot.mk generatorPoly (bitPoly c) := by
  rw [← map_mul, X_mul_bitPoly, crcShift, AdjoinRoot.mk_eq_mk]
  split_ifs
  · rw [bitPoly_xor, add_sub_add_left_eq_sub, CharTwo.sub_eq_add, bitPoly_crcGenerator]
  · simp

theorem mk_bitPoly_crcShifts (n : Nat) (c : Byte) : AdjoinRoot.mk generatorPoly (bitPoly (crcShifts n c)) =
    AdjoinRoot.mk generatorPoly X ^ n * AdjoinRoot.mk generatorPoly (bitPoly c) := by
  induction n generalizing c with
  | zero => simp [crcShifts]
  | succ n ih => rw [crcShifts, ih, mk_bitPoly_crcShift, pow_succ, mul_assoc]

theorem bitPoly_word (v : Word) : bitPoly v = X ^ 8 * bitPoly (hiByte v) + bitPoly (loByte v) := by
  ext i
  rw [Polynomial.coeff_add, Polynomial.coeff_X_pow_mul', coeff_bitPoly, coeff_bitPoly, coeff_bitPoly]
  have bit := joinBytes_bit (hiByte v) (loByte v) i
  rw [joinBytes_split] at bit
  split_ifs at bit with low
  · simp [bit, show ¬ 8 ≤ i by omega]
  · simp [bit, show 8 ≤ i by omega]

theorem mk_bitPoly_crcLinear (v : Word) : AdjoinRoot.mk generatorPoly (bitPoly (crcLinear v)) =
    AdjoinRoot.mk generatorPoly (bitPoly v * X ^ 8) := by
  rw [crcLinear, mk_bitPoly_crcShifts, bitPoly_xor, map_add, mk_bitPoly_crcShifts, bitPoly_word v]
  simp only [map_mul, map_add, map_pow]
  ring

/-- The register's last value has degree below 8, so it is the remainder itself. -/
theorem bitPoly_mul_modByMonic (v : Word) : (bitPoly v * X ^ 8) %ₘ generatorPoly = bitPoly (crcLinear v) := by
  have congruent := AdjoinRoot.mk_eq_mk.mp (mk_bitPoly_crcLinear v).symm
  have reduced : (bitPoly (crcLinear v)).degree < generatorPoly.degree := by
    rw [generatorPoly_degree]
    exact bitPoly_degree_lt _
  rw [Polynomial.modByMonic_eq_of_dvd_sub generatorPoly_monic congruent,
    (Polynomial.modByMonic_eq_self_iff generatorPoly_monic).mpr reduced]

/-- Settles O45: the initial value is an XOR into the first byte, and the register divides by `G(x)`. -/
theorem crcIsThePolynomialRemainder : Obligations.CrcIsThePolynomialRemainder := by
  refine ⟨?_, fun v => ⟨bitPoly (v ^^^ 0xFF00#16), spells_bitPoly _, ?_⟩⟩
  · have generator := spells_bitPoly 0x131#9
    rwa [bitPoly_0x131] at generator
  · have remainder := spells_bitPoly (crc8Word v)
    rwa [crc8Word_eq_crcLinear, ← bitPoly_mul_modByMonic, ← crc8Word_eq_crcLinear] at remainder

end Sys2Proof.Machine

namespace Sys2Proof.Machine

/-! ## Undetected error patterns

Bit `k` of an error adds `x^k mod G(x)` to the register. A pattern goes undetected when its columns XOR to zero. -/

/-- `x^k` modulo `G(x)`, as a byte. -/
def crcColumn (k : Nat) : Byte := crcShifts k 0x01#8

theorem crcShifts_add (m n : Nat) (c : Byte) : crcShifts (m + n) c = crcShifts n (crcShifts m c) := by
  induction m generalizing c with
  | zero => rw [Nat.zero_add, crcShifts]
  | succ m ih => rw [Nat.succ_add, crcShifts, crcShifts, ih]

/-- `G(x)` has the term 1, so a pass loses nothing. -/
theorem crcShifts_eq_zero_iff (n : Nat) (c : Byte) : crcShifts n c = 0#8 ↔ c = 0#8 := by
  have onePass : ∀ c : Byte, crcShift c = 0#8 ↔ c = 0#8 := by decide +kernel
  induction n generalizing c with
  | zero => rfl
  | succ n ih => exact (ih (crcShift c)).trans (onePass c)

theorem crcShifts_injective (n : Nat) : Function.Injective (crcShifts n) := by
  intro a b same
  have difference : crcShifts n (a ^^^ b) = 0#8 := by rw [crcShifts_xor, same, BitVec.xor_self]
  exact BitVec.xor_eq_zero_iff.mp ((crcShifts_eq_zero_iff n _).mp difference)

theorem crcLinear_eq_crcShifts_xorOver (e : Word) : crcLinear e = crcShifts 8 (xorOver (setBits e) crcColumn) := by
  have singleBit : ∀ k < 16, crcLinear (1#16 <<< k) = crcShifts 8 (crcColumn k) := by decide +kernel
  rw [(crcShifts_xorHom 8).map_xorOver, crcLinear_xorHom.eq_xorOver_of_singleBits singleBit]

/-- R57's question about a pattern of data bits: do its columns XOR to zero? -/
theorem crc8Word_xor_eq_self_iff (v e : Word) :
    crc8Word (v ^^^ e) = crc8Word v ↔ xorOver (setBits e) crcColumn = 0#8 := by
  rw [crc8Word_xor_eq, xor_eq_left_iff, crcLinear_eq_crcShifts_xorOver, crcShifts_eq_zero_iff]

/-- The parity of a byte's bits. -/
def parity (c : Byte) : BitVec 1 := xorOver (Finset.range 8) (fun i => c.extractLsb' i 1)

theorem parity_xorHom : XorHom parity := by
  intro a b
  simp only [parity, BitVec.extractLsb'_xor, xorOver_xor]

/-- `G(x)` has an even number of terms, so a pass keeps the parity (R57). -/
theorem parity_crcShifts (n : Nat) (c : Byte) : parity (crcShifts n c) = parity c := by
  have onePass : ∀ c : Byte, parity (crcShift c) = parity c := by decide +kernel
  induction n generalizing c with
  | zero => rfl
  | succ n ih => rw [crcShifts, ih, onePass]

theorem parity_crcColumn (k : Nat) : parity (crcColumn k) = 1#1 :=
  (parity_crcShifts k _).trans (by decide)

theorem xorOver_one (s : Finset Nat) : xorOver s (fun _ => 1#1) = BitVec.ofNat 1 s.card := by
  induction s using Finset.induction with
  | empty => rfl
  | insert k s new ih =>
    rw [xorOver_insert _ new, ih, Finset.card_insert_of_notMem new, ← BitVec.add_eq_xor, Nat.add_comm, BitVec.ofNat_add]

/-- Every column has odd parity, so the columns of oddly many bits do not cancel. -/
theorem xorOver_crcColumn_ne_zero_of_odd {s : Finset Nat} (odd : s.card % 2 = 1) : xorOver s crcColumn ≠ 0#8 := by
  intro zero
  have parities := parity_xorHom.map_xorOver s crcColumn
  simp only [zero, parity_xorHom.map_zero, parity_crcColumn, xorOver_one] at parities
  have even := congrArg BitVec.toNat parities
  rw [BitVec.toNat_ofNat, BitVec.toNat_ofNat] at even
  omega

/-- No two bits of a record have the same column. -/
theorem xorOver_crcColumn_ne_zero_of_two {s : Finset Nat} (two : s.card = 2) (inRecord : ∀ k ∈ s, k < 24) :
    xorOver s crcColumn ≠ 0#8 := by
  have distinct : ∀ i < 24, ∀ j < 24, crcColumn i = crcColumn j → i = j := by decide +kernel
  obtain ⟨i, j, differ, rfl⟩ := Finset.card_eq_two.mp two
  rw [xorOver_insert _ (by simpa using differ), xorOver_singleton]
  exact fun zero => differ (distinct i (inRecord i (by simp)) j (inRecord j (by simp)) (BitVec.xor_eq_zero_iff.mp zero))

/-- One, two, three or oddly many bits of a record are always detected (R57). -/
theorem xorOver_crcColumn_ne_zero_of_light {s : Finset Nat} (inRecord : ∀ k ∈ s, k < 24)
    (light : s.card = 1 ∨ s.card = 2 ∨ s.card = 3 ∨ s.card % 2 = 1) : xorOver s crcColumn ≠ 0#8 := by
  have two_or_odd : s.card = 2 ∨ s.card % 2 = 1 := by omega
  rcases two_or_odd with two | odd
  · exact xorOver_crcColumn_ne_zero_of_two two inRecord
  · exact xorOver_crcColumn_ne_zero_of_odd odd

/-- The columns of a burst are the passes of one byte: its pattern moved down to position 0. -/
theorem xorOver_crcColumn_of_burst {s : Finset Nat} {k : Nat} (burst : ∀ i ∈ s, k ≤ i ∧ i < k + 8) :
    xorOver s crcColumn = crcShifts k (patternOf 8 (s.image (· - k))) := by
  have singleBit : ∀ i < 8, crcColumn i = 1#8 <<< i := by decide +kernel
  have inj : Set.InjOn (· - k) (s : Set Nat) :=
    fun i hi j hj same => (tsub_left_inj (burst i hi).1 (burst j hj).1).mp same
  rw [patternOf, xorOver, xorOver, Finset.fold_image inj, ← xorOver, ← xorOver, (crcShifts_xorHom k).map_xorOver]
  refine xorOver_congr fun i hi => ?_
  obtain ⟨low, high⟩ := burst i hi
  rw [Function.comp_apply, ← singleBit (i - k) (by omega), crcColumn, crcColumn, ← crcShifts_add,
    Nat.sub_add_cancel low]

/-- The byte of a burst is not zero, and the passes lose no nonzero byte (R57). -/
theorem xorOver_crcColumn_ne_zero_of_burst {s : Finset Nat} {k : Nat} (some_bit : s.Nonempty)
    (burst : ∀ i ∈ s, k ≤ i ∧ i < k + 8) : xorOver s crcColumn ≠ 0#8 := by
  obtain ⟨i, hi⟩ := some_bit
  obtain ⟨low, high⟩ := burst i hi
  have bit : (patternOf 8 (s.image (· - k))).getLsbD (i - k) = true := by
    rw [getLsbD_patternOf, decide_eq_true_iff]
    exact ⟨by omega, Finset.mem_image_of_mem _ hi⟩
  rw [xorOver_crcColumn_of_burst burst, Ne, crcShifts_eq_zero_iff]
  intro zero
  simp [zero] at bit

/-- Settles O49: a light pattern or a burst has columns that do not cancel; those of 0x0131 do, being `G(x)` itself. -/
theorem dataErrorsAreDetected : Obligations.DataErrorsAreDetected := by
  refine ⟨fun e nonzero pattern v => ?_, by decide, fun v => (crc8Word_xor_eq_self_iff v _).mpr (by decide +kernel)⟩
  rw [Ne, crc8Word_xor_eq_self_iff]
  simp only [weight_eq_card] at pattern
  have inRecord : ∀ k ∈ setBits e, k < 24 := fun k hk => (lt_of_mem_setBits hk).trans (by decide)
  by_cases burst : Claims.withinEight e
  · obtain ⟨k, within⟩ := burst
    exact xorOver_crcColumn_ne_zero_of_burst (setBits_nonempty nonzero) fun i hi => within i ((mem_setBits e i).mp hi)
  · exact xorOver_crcColumn_ne_zero_of_light inRecord (by simpa [burst] using pattern)

/-! ## Whole records -/

/-- What an error changes in the comparison of R65: the checksum of the data, and the checksum byte. -/
def syndrome (e : BitVec 24) : Byte := crcLinear (e.extractLsb' 8 16) ^^^ e.extractLsb' 0 8

theorem syndrome_xorHom : XorHom syndrome := by
  intro a b
  simp only [syndrome, BitVec.extractLsb'_xor, crcLinear_xorHom (a.extractLsb' 8 16)]
  ac_rfl

theorem syndrome_eq_xorOver (e : BitVec 24) : syndrome e = xorOver (setBits e) crcColumn :=
  syndrome_xorHom.eq_xorOver_of_singleBits (by decide +kernel) e

theorem record24_data (v : Word) : (Claims.record24 v).extractLsb' 8 16 = v := BitVec.extractLsb'_append_eq_left

theorem record24_check (v : Word) : (Claims.record24 v).extractLsb' 0 8 = crc8Word v :=
  BitVec.extractLsb'_append_eq_right

theorem decodeRecord_eq_error_iff (r0 r1 r2 : Byte) :
    decodeRecord r0 r1 r2 = .error .checksumMismatch ↔ crc8 r0 r1 ≠ r2 := by
  rcases decodeRecord_cases r0 r1 r2 with ⟨agrees, accepted⟩ | ⟨differs, rejected⟩
  · simp [accepted, agrees]
  · simp [rejected, differs]

theorem decode24_eq_error_iff (r : BitVec 24) : Claims.decode24 r = .error .checksumMismatch ↔
    crc8Word (r.extractLsb' 8 16) ≠ r.extractLsb' 0 8 := by
  have hi : hiByte (r.extractLsb' 8 16) = r.extractLsb' 16 8 := by
    ext i hi
    simp [hiByte, show 8 + i < 16 by omega, show 8 + (8 + i) = 16 + i by omega]
  have lo : loByte (r.extractLsb' 8 16) = r.extractLsb' 8 8 := by
    ext i hi
    simp [loByte, show i < 16 by omega]
  rw [Claims.decode24, decodeRecord_eq_error_iff, crc8Word, hi, lo]

/-- An error on a valid record is detected when the columns of its bits do not cancel. -/
theorem decode24_corrupted_eq_error_iff (v : Word) (e : BitVec 24) :
    Claims.decode24 (Claims.record24 v ^^^ e) = .error .checksumMismatch ↔ xorOver (setBits e) crcColumn ≠ 0#8 := by
  rw [decode24_eq_error_iff, BitVec.extractLsb'_xor, BitVec.extractLsb'_xor, record24_data, record24_check,
    crc8Word_xor_eq, ne_eq, BitVec.xor_right_inj, ← BitVec.xor_eq_zero_iff, ← syndrome, syndrome_eq_xorOver]

/-- The sets of `k` positions below `n` whose columns XOR to `c`. -/
def cancelling (n k : Nat) (c : Byte) : Finset (Finset Nat) :=
  ((Finset.range n).powersetCard k).filter (fun s => xorOver s crcColumn = c)

/-- How many there are: position `n` is left out, or it is taken and the others make up for its column. -/
def countCancelling : Nat → Nat → Byte → Nat
  | _, 0, c => if c = 0#8 then 1 else 0
  | 0, _ + 1, _ => 0
  | n + 1, k + 1, c => countCancelling n (k + 1) c + countCancelling n k (crcColumn n ^^^ c)

theorem mem_cancelling {n k : Nat} {c : Byte} {s : Finset Nat} :
    s ∈ cancelling n k c ↔ (s ⊆ Finset.range n ∧ s.card = k) ∧ xorOver s crcColumn = c := by
  rw [cancelling, Finset.mem_filter, Finset.mem_powersetCard]

theorem notMem_of_mem_cancelling {n k : Nat} {c : Byte} {s : Finset Nat} (h : s ∈ cancelling n k c) : n ∉ s :=
  fun hn => Finset.notMem_range_self ((mem_cancelling.mp h).1.1 hn)

theorem cancelling_succ (n k : Nat) (c : Byte) : cancelling (n + 1) (k + 1) c =
    cancelling n (k + 1) c ∪ (cancelling n k (crcColumn n ^^^ c)).image (insert n) := by
  have taken : ∀ s ∈ (Finset.range n).powersetCard k,
      xorOver (insert n s) crcColumn = c ↔ xorOver s crcColumn = crcColumn n ^^^ c := by
    intro s hs
    have new : n ∉ s := fun hn => Finset.notMem_range_self ((Finset.mem_powersetCard.mp hs).1 hn)
    rw [xorOver_insert _ new, ← BitVec.xor_right_inj (crcColumn n), xor_cancel_left]
  rw [cancelling, Finset.range_add_one, Finset.powersetCard_succ_insert Finset.notMem_range_self, Finset.filter_union,
    Finset.filter_image, Finset.filter_congr taken, cancelling, cancelling]

theorem card_cancelling (n k : Nat) (c : Byte) : (cancelling n k c).card = countCancelling n k c := by
  induction n, k, c using countCancelling.induct with
  | case1 n => simp [cancelling, countCancelling, Finset.filter_singleton]
  | case2 n c nonzero => simp [cancelling, countCancelling, Finset.filter_singleton, nonzero, Ne.symm nonzero]
  | case3 k c => simp [cancelling, countCancelling]
  | case4 n k c without taken =>
    have apart : Disjoint (cancelling n (k + 1) c) ((cancelling n k (crcColumn n ^^^ c)).image (insert n)) := by
      refine Finset.disjoint_left.mpr fun s hs image => ?_
      obtain ⟨t, -, rfl⟩ := Finset.mem_image.mp image
      exact notMem_of_mem_cancelling hs (Finset.mem_insert_self n t)
    have inj : Set.InjOn (insert n) (cancelling n k (crcColumn n ^^^ c) : Set (Finset Nat)) := by
      intro s hs t ht same
      rw [← Finset.erase_insert (notMem_of_mem_cancelling hs), same, Finset.erase_insert (notMem_of_mem_cancelling ht)]
    rw [cancelling_succ, Finset.card_union_of_disjoint apart, Finset.card_image_of_injOn inj, without, taken,
      countCancelling]

theorem undetected_iff_mem_cancelling (e : BitVec 24) (k : Nat) :
    (Claims.weight e = k ∧ ∀ v : Word, Claims.decode24 (Claims.record24 v ^^^ e) ≠ .error .checksumMismatch) ↔
      setBits e ∈ cancelling 24 k 0#8 := by
  have inRecord : setBits e ⊆ Finset.range 24 := fun _ hi => Finset.mem_range.mpr (lt_of_mem_setBits hi)
  simp only [ne_eq, decode24_corrupted_eq_error_iff, not_not, forall_const, weight_eq_card, mem_cancelling, inRecord,
    true_and]

/-- Settles O50: fewer than four columns do not cancel, and the patterns of four that do are counted as sets of
positions. -/
theorem eightyFourBitRecordErrorsGoUndetected : Obligations.EightyFourBitRecordErrorsGoUndetected := by
  refine ⟨fun e nonzero light v => ?_, ?_⟩
  · have some_bit := Finset.card_pos.mpr (setBits_nonempty nonzero)
    rw [weight_eq_card] at light
    exact (decode24_corrupted_eq_error_iff v e).mpr
      (xorOver_crcColumn_ne_zero_of_light (fun _ => lt_of_mem_setBits) (by omega))
  · have inRecord : ∀ s ∈ cancelling 24 4 0#8, s ⊆ Finset.range 24 := fun s hs => (mem_cancelling.mp hs).1.1
    have count : countCancelling 24 4 0#8 = 80 := by decide +kernel
    calc
      _ = Nat.card { e : BitVec 24 // setBits e ∈ cancelling 24 4 0#8 } :=
        Nat.card_congr (Equiv.subtypeEquivRight fun e => undetected_iff_mem_cancelling e 4)
      _ = Nat.card (cancelling 24 4 0#8) := Nat.card_congr (patternEquiv inRecord)
      _ = 80 := by rw [Nat.card_eq_finsetCard, card_cancelling, count]

/-! ## How often each checksum value occurs -/

theorem crcShifts_bijective (n : Nat) : Function.Bijective (crcShifts n) :=
  Finite.injective_iff_bijective.mp (crcShifts_injective n)

theorem card_byte : Nat.card Byte = 256 := by
  rw [Nat.card_eq_fintype_card, ← FinEnum.card_eq_fintypeCard, FinEnum.card_bitVec]
  rfl

/-- Each first byte has exactly one second byte that gives the checksum `c`. -/
theorem fst_of_checksum_bijective (c : Byte) :
    Function.Bijective (fun p : { p : Byte × Byte // crc8 p.1 p.2 = c } => p.1.1) := by
  constructor
  · rintro ⟨⟨a, b⟩, hb⟩ ⟨⟨a', b'⟩, hb'⟩ same
    obtain rfl : a = a' := same
    have second := crcShifts_injective 8 (hb.trans hb'.symm)
    obtain rfl : b = b' := (BitVec.xor_right_inj _).mp second
    rfl
  · intro a
    obtain ⟨register, passes⟩ := (crcShifts_bijective 8).surjective c
    refine ⟨⟨(a, crc8Byte crcInit a ^^^ register), ?_⟩, rfl⟩
    rw [crc8, crc8Byte, xor_cancel_left, passes]

theorem card_pairs_with_crc8 (c : Byte) : Nat.card { p : Byte × Byte // crc8 p.1 p.2 = c } = 256 :=
  (Nat.card_eq_of_bijective _ (fst_of_checksum_bijective c)).trans card_byte

/-- A word is its two bytes (R26). -/
def wordBytes : Word ≃ Byte × Byte where
  toFun v := (hiByte v, loByte v)
  invFun p := joinBytes p.1 p.2
  left_inv := joinBytes_split
  right_inv p := Prod.ext (hiByte_joinBytes p.1 p.2) (loByte_joinBytes p.1 p.2)

/-- Settles O51: words are byte pairs, and each first byte has one second byte. -/
theorem eachChecksumHasExactly256Words : Obligations.EachChecksumHasExactly256Words := by
  intro c
  rw [← card_pairs_with_crc8 c]
  exact Nat.card_congr (wordBytes.subtypeEquiv fun v => Iff.rfl)

/-! ## CHECKSUM -/

/-- Settles O7: the meaning is R20's row, its word and its line are CHECKSUM's, and the values are evaluated. -/
theorem checksumDrivesTheCrcOfItsTwoBytes : Obligations.ChecksumDrivesTheCrcOfItsTwoBytes := by
  refine ⟨fun _ _ _ => rfl, fun x s driven op => ?_, fun b0 b1 => assemble_line_op (.checksum b0 b1), ?_, ?_,
    card_pairs_with_crc8 _, ?_, ?_, ?_⟩
  · rw [step_of_inp s driven, decode_opword, if_pos op]
  all_goals decide +kernel

/-- Settles O18: both steps present CHECKSUM's row, which reads its two bytes only. -/
theorem checksumDependsOnItsTwoBytesOnly : Obligations.ChecksumDependsOnItsTwoBytesOnly := by
  intro s r x y driven_s driven_r op_x op_y din0 din1
  have sameRow : portTable x = portTable y := portTable_congr (op_x.trans op_y.symm) (.inl ⟨op_x, din0, din1⟩)
  exact ⟨_, _, step_eq_present_portTable driven_s, step_eq_present_portTable driven_r, congrArg Outputs.crc sameRow⟩

/-- Settles O48: each value by evaluation. -/
theorem publishedCheckValues : Obligations.PublishedCheckValues :=
  ⟨by decide +kernel, by decide +kernel⟩

end Sys2Proof.Machine

namespace Sys2Proof.Machine

open Sys2Proof.Claims (reading)

/-! ## The word codec: records and words

DEC_WORD accepts a record as a word exactly when ENC_WORD drives that record for the word. Every law of the codec
(R64, R66, R68, R69) follows from this one equivalence. -/

/-- Decoding and encoding are one relation between words and records, read in the two directions. -/
theorem decodeRecord_eq_ok_iff_encodeRecord (r0 r1 r2 : Byte) (v : Word) :
    decodeRecord r0 r1 r2 = .ok v ↔ encodeRecord v = (r0, r1, r2) := by
  constructor
  · intro accepted
    obtain ⟨rfl, rfl⟩ := (decodeRecord_eq_ok_iff ..).mp accepted
    rw [encodeRecord, hiByte_joinBytes, loByte_joinBytes]
  · intro encoded
    have roundTrip := decodeRecord_encodeRecord v
    rwa [encoded] at roundTrip

/-- Whether some word is decoded is a question about the third byte alone (R65). -/
theorem exists_decodeRecord_eq_ok_iff (r0 r1 r2 : Byte) :
    (∃ v, decodeRecord r0 r1 r2 = .ok v) ↔ r2 = crc8 r0 r1 := by
  simp [decodeRecord_eq_ok_iff]

/-- Decoding undoes encoding, so no two words share a record (R64). -/
theorem encodeRecord_injective : Function.Injective encodeRecord := by
  intro v w same
  have decoded := decodeRecord_encodeRecord v
  rw [same, decodeRecord_encodeRecord w] at decoded
  exact (Except.ok.inj decoded).symm

/-- ENC_WORD drives the record of its word on the three lanes (R62). -/
theorem exec_encWord_drives_encodeRecord (v : Word) (s : State) : ∃ t, exec (.encWord v) s = .next t ∧
    (t.out.dout0, t.out.dout1, t.out.dout2) = encodeRecord v :=
  ⟨_, rfl, rfl⟩

/-- Settles O52: the lanes that ENC_WORD drives are the word's record, which decodes to the word. -/
theorem decodingAnEncodedWordGivesItBack : Obligations.DecodingAnEncodedWordGivesItBack := by
  intro v s r
  obtain ⟨t, encodes, lanes⟩ := exec_encWord_drives_encodeRecord v s
  obtain ⟨u, decodes, verdict⟩ := exec_decWord_verdict t.out.dout0 t.out.dout1 t.out.dout2 r
  rw [(decodeRecord_eq_ok_iff_encodeRecord ..).mpr lanes.symm] at verdict
  exact ⟨t, u, encodes, decodes, verdict⟩

/-- Settles O53: a record that decodes to a word is the one record of that word. -/
theorem encodingADecodedRecordGivesItBack : Obligations.EncodingADecodedRecordGivesItBack := by
  intro r0 r1 r2 v s r accepted
  obtain ⟨t, decodes, verdict⟩ := exec_decWord_verdict r0 r1 r2 s
  obtain ⟨u, encodes, lanes⟩ := exec_encWord_drives_encodeRecord v r
  rw [(decodeRecord_eq_ok_iff_encodeRecord ..).mp accepted, Prod.mk.injEq, Prod.mk.injEq] at lanes
  rw [accepted] at verdict
  exact ⟨t, u, decodes, verdict, encodes, lanes⟩

/-! ## How many records are valid -/

theorem card_word : Nat.card Word = 65536 := by
  rw [Nat.card_congr wordBytes, Nat.card_prod, card_byte]

theorem card_records : Nat.card (Byte × Byte × Byte) = 2 ^ 24 := by
  rw [Nat.card_prod, Nat.card_prod, card_byte]
  norm_num

/-- The valid records are the image of the words, one of each (R64). -/
theorem card_validRecords : Nat.card { r : Byte × Byte × Byte // ∃ v, encodeRecord v = r } = 65536 :=
  (Nat.card_congr (Equiv.ofInjective encodeRecord encodeRecord_injective)).symm.trans card_word

/-- Rejection is not being the record of any word (R66). -/
theorem decodeRecord_eq_error_iff_not_encoded (r : Byte × Byte × Byte) :
    decodeRecord r.1 r.2.1 r.2.2 = .error .checksumMismatch ↔ ¬ ∃ v, encodeRecord v = r := by
  have accepted := exists_decodeRecord_eq_ok_iff r.1 r.2.1 r.2.2
  simp only [decodeRecord_eq_ok_iff_encodeRecord] at accepted
  rw [decodeRecord_eq_error_iff, accepted, ne_comm]

/-- The rejected strings are all but the valid records (R66). -/
theorem card_rejectedRecords :
    Nat.card { r : Byte × Byte × Byte // decodeRecord r.1 r.2.1 r.2.2 = .error .checksumMismatch } = 16711680 := by
  have split : Nat.card { r : Byte × Byte × Byte // ∃ v, encodeRecord v = r } +
      Nat.card { r : Byte × Byte × Byte // ¬ ∃ v, encodeRecord v = r } = 2 ^ 24 := by
    classical
    rw [← Nat.card_sum, Nat.card_congr (Equiv.sumCompl _), card_records]
  rw [card_validRecords] at split
  rw [Nat.card_congr (Equiv.subtypeEquivRight decodeRecord_eq_error_iff_not_encoded)]
  omega

/-- Settles O54: encoding is injective, and its image is counted by the words. -/
theorem validRecordsAreOnePerWord : Obligations.ValidRecordsAreOnePerWord :=
  ⟨fun _ _ same => encodeRecord_injective same, exec_encWord_drives_encodeRecord, card_validRecords, card_records⟩

/-- Settles O55: acceptance is being encoded, the checksum is the one third byte, and a rejection drives zeros. -/
theorem onlyValidRecordsAreAccepted : Obligations.OnlyValidRecordsAreAccepted := by
  refine ⟨fun r0 r1 r2 => exists_congr (decodeRecord_eq_ok_iff_encodeRecord r0 r1 r2), fun r0 r1 => ?_,
    card_rejectedRecords, fun r0 r1 r2 s rejected => ?_⟩
  · simp only [exists_decodeRecord_eq_ok_iff]
    exact existsUnique_eq
  · have differs := (decodeRecord_eq_error_iff r0 r1 r2).mp rejected
    exact ⟨_, exec_decWord_rejected s differs, verdict_of_mismatch _ rfl, rfl, rfl⟩

/-! ## Corrupted records -/

theorem setBits_singleBit {n k : Nat} (h : k < n) : setBits (1#n <<< k) = {k} := by
  have single (i : Nat) : (1#n <<< k).getLsbD i = (decide (k < n) && decide (k = i)) := BitVec.getLsbD_twoPow k i
  ext i
  simp [single, h, eq_comm]

/-- A corruption of one, two, three or oddly many bits is detected (R57, R70). -/
theorem decode24_of_light_corruption (v : Word) {e : BitVec 24}
    (light : (setBits e).card = 1 ∨ (setBits e).card = 2 ∨ (setBits e).card = 3 ∨ (setBits e).card % 2 = 1) :
    Claims.decode24 (Claims.record24 v ^^^ e) = .error .checksumMismatch :=
  (decode24_corrupted_eq_error_iff v e).mpr (xorOver_crcColumn_ne_zero_of_light (fun _ => lt_of_mem_setBits) light)

/-- The 24-bit form of a record is its three bytes in wire order (R27). -/
theorem encodeRecord_eq_record24_bytes (v : Word) : encodeRecord v =
    ((Claims.record24 v).extractLsb' 16 8, (Claims.record24 v).extractLsb' 8 8,
      (Claims.record24 v).extractLsb' 0 8) := by
  have first : (Claims.record24 v).extractLsb' 16 8 = hiByte v := BitVec.extractLsb'_append_eq_of_le (by decide)
  have second : (Claims.record24 v).extractLsb' 8 8 = loByte v := BitVec.extractLsb'_append_eq_of_le (by decide)
  rw [first, second, record24_check]
  rfl

theorem decode24_record24 (v : Word) : Claims.decode24 (Claims.record24 v) = .ok v :=
  (decodeRecord_eq_ok_iff_encodeRecord ..).mpr (encodeRecord_eq_record24_bytes v)

/-- Settles O56: light corruptions have columns that do not cancel; `G(x)` itself, moved to the record's end, has four
bits that do, and takes the word 0x0000 to 0x0001. -/
theorem lightCorruptionsOfARecordAreRejected : Obligations.LightCorruptionsOfARecordAreRejected := by
  refine ⟨fun v k inRecord => ?_, fun v e light => ?_, ⟨0x0000#16, 0x0001#16, 0x000131#24, ?_⟩,
    decode24_record24⟩
  · exact decode24_of_light_corruption v (.inl (by rw [setBits_singleBit inRecord, Finset.card_singleton]))
  · simp only [weight_eq_card] at light
    exact decode24_of_light_corruption v light
  · decide +kernel

/-! ## The encoders and the decoder, operation by operation -/

/-- Settles O8: the meaning is R20's row, its word and its line are ENC_CMD's. -/
theorem encCmdDrivesTheTwoBytesOfTheCode : Obligations.EncCmdDrivesTheTwoBytesOfTheCode := by
  refine ⟨fun _ _ => rfl, fun x s driven op => ?_, fun v => assemble_line_op (.encCmd v),
    fun s => ⟨⟨_, rfl, rfl, rfl⟩, ⟨_, rfl, rfl, rfl⟩, ⟨_, rfl, rfl, rfl, rfl⟩⟩⟩
  simp [step_of_inp s driven, decode_opword, op]

/-- Settles O33: both rows split the word in the same two bytes. -/
theorem dataWordsAreSpelledLikeCommands : Obligations.DataWordsAreSpelledLikeCommands := by
  intro v s r
  refine ⟨_, _, exec_eq_present_reading (.encWord v) s, exec_eq_present_reading (.encCmd v) r, ?_, ?_, ?_⟩
  · simp [reading, portTable]
  · simp [reading, portTable]
  · simp [wireBytes_reading_encCmd, wireBytes_reading_encWord]

/-- Settles O9: the meaning is R20's row, its word and its line are ENC_WORD's, and the records are evaluated. -/
theorem encWordDrivesTheWireRecord : Obligations.EncWordDrivesTheWireRecord := by
  refine ⟨fun _ _ => rfl, fun x s driven op => ?_, fun v => assemble_line_op (.encWord v), fun v s => ?_,
    ?_, ?_, ?_, ?_, ?_, exec_encWord_drives_encodeRecord⟩
  · simp [step_of_inp s driven, decode_opword, op]
  · obtain ⟨t, u, encWord, encCmd, first, second, _⟩ := dataWordsAreSpelledLikeCommands v s s
    exact ⟨t, u, encWord, encCmd, first, second⟩
  all_goals decide +kernel

/-- Settles O10: the two outcomes by the comparison of checksums, DEC_WORD's word and line, its verdict, and the records
by evaluation. -/
theorem decWordAcceptsOrReportsTheRecord : Obligations.DecWordAcceptsOrReportsTheRecord := by
  refine ⟨fun _ _ _ => exec_decWord_rejected, fun _ _ _ => exec_decWord_accepted, fun x s driven op => ?_,
    fun r0 r1 r2 => assemble_line_op (.decWord r0 r1 r2), exec_decWord_verdict, ?_, ?_, ?_, ?_, ?_, ?_, ?_⟩
  · simp [step_of_inp s driven, decode_opword, op]
  all_goals decide +kernel

/-! ## What the host reads -/

/-- A host with CHECKSUM compares the two checksums itself (R72). -/
theorem verifiedByChecksum_reading (r0 r1 r2 : Byte) :
    verifiedByChecksum (reading (.checksum r0 r1)) r2 = true ↔ r2 = crc8 r0 r1 := by
  simp [verifiedByChecksum, reading, portTable, eq_comm]

/-- Settles O42: both verdicts are the comparison of the third byte with the checksum. -/
theorem checksumAloneVerifiesARecord : Obligations.ChecksumAloneVerifiesARecord := by
  intro r0 r1 r2 s u
  obtain ⟨s', checks⟩ := hostOp_eq (.checksum r0 r1) s
  obtain ⟨u', decodes⟩ := hostOp_eq (.decWord r0 r1 r2) u
  refine ⟨s', u', _, _, checks, decodes, ?_⟩
  have verdict : (reading (.decWord r0 r1 r2)).verdict = some (decodeRecord r0 r1 r2) :=
    verdict_reading_decOp (r0, r1, r2)
  simp only [verifiedByChecksum_reading, ← exists_decodeRecord_eq_ok_iff, verdict, Option.some_inj]

/-- A settled sample of a consistent state shows R20's row for the driven levels (R16, R90). -/
theorem sample_of_consistent {s : State} {x : Inputs} (consistent : s.consistent) (settled : s.settled = true)
    (driven : s.inp = some x) : s.sample.1 = portTable x := by
  obtain ⟨y, driven_y, row⟩ := consistent settled
  obtain rfl : x = y := Option.some.inj (driven.symm.trans driven_y)
  rw [sample_settled s settled, row]

/-- The word of a reading is its `vout`, and only with `mismatch` clear (R67, R94). -/
theorem vout_of_verdict_ok {r : Reading} {v : Word} (h : r.verdict = some (.ok v)) : r.out.vout = v := by
  unfold Reading.verdict at h
  split_ifs at h
  · simpa using h
  · simp at h

/-- Settles O30: the sample is the table's row, whose verdict is the record decoded. -/
theorem oneSampleGivesTheWordAndItsVerdict : Obligations.OneSampleGivesTheWordAndItsVerdict := by
  intro s x consistent settled driven
  refine ⟨fun op => ?_, fun other => verdict_of_other _ other⟩
  have verdict : Reading.verdict ⟨x.op, s.sample.1⟩ = some (decodeRecord x.din0 x.din1 x.din2) := by
    rw [sample_of_consistent consistent settled driven, verdict_portTable_decWord op]
  refine ⟨verdict, fun v word => ⟨?_, vout_of_verdict_ok word⟩⟩
  have accepted := Option.some.inj (verdict.symm.trans word)
  exact ((decodeRecord_eq_ok_iff ..).mp accepted).2

end Sys2Proof.Machine

namespace Sys2Proof.Machine

open Sys2Proof.Claims (reading)

/-! ## ChecksumMismatch: who raises it, and what the ports show -/

/-- An operation's `mismatch` is its record's rejection (R73). -/
theorem reading_mismatch_eq_one_iff (i : Instr) : (reading i).out.mismatch = 1#1 ↔
    ∃ r0 r1 r2, i = .decWord r0 r1 r2 ∧ decodeRecord r0 r1 r2 = .error .checksumMismatch := by
  have isDecWord (h : (reading i).out.mismatch = 1#1) : (reading i).op = 0b11#2 :=
    ((portTable_mismatch_eq_one (Inputs.ofInstr i)).mp h).1
  rw [← reading_verdict_eq_some_iff, verdict_eq_error_iff]
  exact ⟨fun h => ⟨isDecWord h, h⟩, And.right⟩

/-- Settles O26: an operation drives what the host reads of it, and a record is rejected exactly when the checksums
differ. -/
theorem onlyDecWordRaisesChecksumMismatch : Obligations.OnlyDecWordRaisesChecksumMismatch := by
  intro i s
  refine ⟨_, exec_eq_present_reading i s, ?_⟩
  simp only [present_out, reading_mismatch_eq_one_iff, decodeRecord_eq_error_iff]

/-- A rejected record's row of R20: the recomputed checksum and `mismatch`, all else zero (R74). -/
theorem portTable_of_mismatch {x : Inputs} (op : x.op = 0b11#2) (differs : x.din2 ≠ crc8 x.din0 x.din1) :
    portTable x = ⟨0x00#8, 0x00#8, 0x00#8, 0#2, crc8 x.din0 x.din1, 0x0000#16, 1#1⟩ := by
  simp [portTable, op, differs]

/-- Settles O27: the step presents the rejected record's row, and presenting leaves the inputs as they are. -/
theorem mismatchReportShowsTheRecomputedChecksum : Obligations.MismatchReportShowsTheRecomputedChecksum := by
  intro s x driven op differs
  have shows := step_eq_present_portTable driven
  rw [portTable_of_mismatch op differs] at shows
  exact ⟨_, shows, rfl, rfl, rfl, rfl, rfl, rfl, rfl, driven⟩

/-- Settles O29: the failure changes outputs alone, and the next evaluation is the table's row for what is then driven. -/
theorem nextEvaluationAfterMismatchStartsClean : Obligations.NextEvaluationAfterMismatchStartsClean :=
  fun s _ _ _ y differs => ⟨_, _, exec_decWord_rejected s differs, rfl, rfl, step_drive _ y, rfl⟩

/-! ## The cause code -/

theorem causeCode_eq_one_iff (o : Outputs) : causeCode o = 1 ↔ o.mismatch = 1#1 := by
  unfold causeCode
  bv_omega

/-- A status of one bit has two codes (R75). -/
theorem causeCode_eq_zero_iff (o : Outputs) : causeCode o = 0 ↔ causeCode o ≠ 1 := by
  have bit : o.mismatch.toNat < 2 := o.mismatch.isLt
  unfold causeCode
  omega

/-- A record is decoded to a word exactly when it is not rejected (R65). -/
theorem exists_decodeRecord_eq_ok_iff_ne_error (r0 r1 r2 : Byte) :
    (∃ v, decodeRecord r0 r1 r2 = .ok v) ↔ decodeRecord r0 r1 r2 ≠ .error .checksumMismatch := by
  rw [exists_decodeRecord_eq_ok_iff, Ne, decodeRecord_eq_error_iff, not_not, eq_comm]

/-- Settles O28: code 1 is `mismatch`, hence a rejected record; code 0 is the other value of the bit. -/
theorem causeCodeIsZeroOrOne : Obligations.CauseCodeIsZeroOrOne := by
  intro i s
  have raised := (causeCode_eq_one_iff _).trans (reading_mismatch_eq_one_iff i)
  refine ⟨_, exec_eq_present_reading i s, ?_, raised, ?_⟩
  · rw [causeCode_eq_zero_iff]
    exact (em _).symm
  · rw [causeCode_eq_zero_iff, present_out, Ne, raised]
    simp [exists_decodeRecord_eq_ok_iff_ne_error]

/-! ## Responses of several records -/

/-- All records good: the response's words in order (R76). -/
theorem frameWords_decOps_of_good {rs : List (Byte × Byte × Byte)} (good : ∀ r ∈ rs, r.2.2 = crc8 r.1 r.2.1) :
    frameWords ((rs.map decOp).map reading) = some (.ok (rs.map fun r => r.1 ++ r.2.1)) := by
  rw [frameWords_decOps, Option.some_inj, allOrNothing_eq_ok_iff, List.map_map]
  refine List.map_congr_left fun r hr => ?_
  rw [good r hr, decodeRecord_crc8, Function.comp_apply]

/-- One bad record: the failure, and no word (R76). -/
theorem frameWords_decOps_of_bad {rs : List (Byte × Byte × Byte)} (bad : ∃ r ∈ rs, r.2.2 ≠ crc8 r.1 r.2.1) :
    frameWords ((rs.map decOp).map reading) = some (.error .checksumMismatch) := by
  obtain ⟨r, hr, differs⟩ := bad
  rw [frameWords_decOps, Option.some_inj, allOrNothing_eq_error_iff, List.mem_map]
  exact ⟨r, hr, (decodeRecord_eq_error_iff ..).mpr differs.symm⟩

/-- A stream of `n` records expands to one DEC_WORD each (R48). -/
theorem expand_decFrame_of_length {n : Nat} {bytes : List Byte} (positive : 1 ≤ n) (length : bytes.length = 3 * n) :
    ∃ rs, partitionRecords bytes = some rs ∧ expand (.decFrame n bytes) = some (rs.map decOp) := by
  obtain ⟨rs, partition, _, _⟩ := exists_records length
  exact ⟨rs, partition, by rw [expand, if_pos ⟨positive, length⟩, partition, Option.map_some]⟩

/-- Settles O38: the readings of the DEC_WORDs are the decoded records, whatever the state, and combine all or nothing. -/
theorem oneBadRecordFailsTheWholeResponse : Obligations.OneBadRecordFailsTheWholeResponse := by
  intro n bytes s positive length
  obtain ⟨rs, partition, expansion⟩ := expand_decFrame_of_length positive length
  obtain ⟨s', ran⟩ := hostOps_eq (rs.map decOp) s
  exact ⟨_, rs, s', _, expansion, partition, rfl, ran, frameWords_decOps_of_good, frameWords_decOps_of_bad⟩

/-- Settles O40: the response's result is its words or the failure, and the host replaces its value on words only. -/
theorem failedResponseUpdatesNothing : Obligations.FailedResponseUpdatesNothing := by
  intro α derive cached n bytes s positive length
  obtain ⟨is, rs, s', os, expansion, partition, -, ran, words, failure⟩ :=
    oneBadRecordFailsTheWholeResponse n bytes s positive length
  by_cases bad : ∃ r ∈ rs, r.2.2 ≠ crc8 r.1 r.2.1
  · have notGood : ¬ ∀ r ∈ rs, r.2.2 = crc8 r.1 r.2.1 := by simpa using bad
    exact ⟨is, rs, s', os, _, expansion, partition, ran, failure bad, fun _ => rfl, fun good => absurd good notGood⟩
  · have good : ∀ r ∈ rs, r.2.2 = crc8 r.1 r.2.1 := by simpa using bad
    exact ⟨is, rs, s', os, _, expansion, partition, ran, words good, fun h => absurd h bad, fun _ => rfl⟩

end Sys2Proof.Machine

namespace Sys2Proof.Machine

/-! ## Settling (R90) -/

/-- The spec gives `T_PROP` no value; that it is positive is D11. -/
theorem tProp_pos : 0 < Config.tProp := Nat.succ_pos Config.propagationTicks

/-- Settles O21: a hold of `T_PROP` presents the table's row, and a shorter one leaves an unsettled state as it is. -/
theorem holdingForTPropSettlesTheOutputs : Obligations.HoldingForTPropSettlesTheOutputs := by
  refine ⟨tProp_pos, fun s x t driven long => ?_, fun s t short unsettled => ?_⟩
  · exact ⟨_, hold_eq_present_portTable driven long, driven, present_sample s _⟩
  · exact ⟨s, hold_short s t short, by rw [sample_unsettled s unsettled]⟩

/-! ## Power cycle (R86, R89) and system reset (R85) -/

/-- No output is settled and no input is driven at power-up, so a sample shows a free value (R86). -/
theorem powerCycle_sample (s : State) : s.powerCycle.sample.1 = freeOutputs s.draws := by
  rw [sample_unsettled _ (powerCycle_settled s), powerCycle_draws]

theorem step_powerCycle (s : State) : step s.powerCycle = .refused .undefinedInputs :=
  step_of_not_ready (by simp [State.ready])

/-- The model's own counter is all that a power cycle keeps (R89; log entry 15). -/
theorem powerCycle_eq_of_draws_eq {s r : State} (h : s.draws = r.draws) : s.powerCycle = r.powerCycle := by
  rw [State.powerCycle, h, State.powerCycle]

/-- Settles O24: power-up undrives the inputs and unsettles the outputs, and an evaluation after it is one after any
history. -/
theorem powerUpMeansNothingUntilInputsSettle : Obligations.PowerUpMeansNothingUntilInputsSettle :=
  ⟨fun s => ⟨powerCycle_sample s, step_powerCycle s⟩, fun _ _ => powerCycle_eq_of_draws_eq,
    fun s x _ long => evaluation_after_history [.powerCycle] s x long⟩

/-- A reset of the system is no event for the block (R85). -/
theorem hostAct_systemReset (s : State) : hostAct .systemReset s = .next s := by
  rw [hostAct, systemReset_eq]

/-- Settles O23: the state after the reset is the state before it, and its settled sample is the table's row. -/
theorem systemResetChangesNothing : Obligations.SystemResetChangesNothing := by
  refine ⟨hostAct_systemReset, fun s x consistent settled driven => ?_⟩
  have shows := sample_of_consistent consistent settled driven
  exact ⟨shows, s, hostAct_systemReset s, shows⟩

end Sys2Proof.Machine
